-- ==== Sys2Proof/Word.lean ====
section
/-! DEFINITION. The word types of the controller: single bits, bytes, 7-bit I2C addresses and 16-bit bus
addresses (00_scope.md R5, R9). All values are unsigned (R9). -/

namespace Sys2Proof

/-- A bit value, 0 or 1: a line level LOW is 0 and HIGH is 1, ACK is 0 and NACK is 1 (00_scope.md R10). -/
abbrev Bit := BitVec 1

/-- One register of the block (00_scope.md R5). -/
abbrev Byte := BitVec 8

/-- A 7-bit I2C target address (00_scope.md R5). -/
abbrev Addr7 := BitVec 7

/-- An address of the 16-bit system address bus (00_scope.md R5). -/
abbrev BusAddr := BitVec 16

/-- An SPI chip-select index, 0..5 (00_scope.md R5). The spec's -1 (none) is `none` of `Option CsIndex`. -/
abbrev CsIndex := Fin 6

/-- The 4-bit line-transition code `scl_o sda_o scl_n sda_n` (30_encoding.md R85). -/
abbrev LineCode := BitVec 4

/-- The 13-bit bus-cycle word (30_encoding.md R81). -/
abbrev CycleWord := BitVec 13

end Sys2Proof
end

