-- ==== Sys2Proof/Config.lean ====
section
/-! DEFINITION. What a configuration fixes (00_scope.md R7), the interface the controller calls its targets
through (41_spi_master.md R141, 43_i2c_targets.md R201), and the free values: what the spec leaves to a target,
to the host's clock or OPEN. A free value is an opaque constant, so nothing can be proved of which value it is. -/

namespace Sys2Proof

/-- `RTC_STATUS_WRITE` (00_scope.md R7; 92_eei_decisions.md D27). -/
inductive StatusWrite where
  | replaceLow2
  | xorLow2
deriving DecidableEq, Repr

/-- `RTC_PTR_OOR`: the spec gives it one value, MOD19 (00_scope.md R7; 92_eei_decisions.md D25). -/
inductive PtrOutOfRange where
  | mod19
deriving DecidableEq, Repr

/-- The configuration parameters of 00_scope.md R7 that are plain data and fixed from construction. The two
registries are held in State because the host may change them (43_i2c_targets.md R204), and `RTC_CENTURY` is
the free function `Config.rtcCentury`. -/
structure Config where
  /-- `BASE`, the first address of the controller's range. -/
  base : BusAddr
  /-- `RTC_STATUS_WRITE`. -/
  statusWrite : StatusWrite
  /-- `RTC_PTR_OOR`. -/
  ptrOor : PtrOutOfRange
  /-- `RTC_REG_RESET`. -/
  rtcRegReset : Vector Byte 19
deriving DecidableEq, Repr

/-- The defaults of 00_scope.md R7. -/
def Config.default : Config where
  base := 0x4070
  statusWrite := .replaceLow2
  ptrOor := .mod19
  rtcRegReset := Vector.replicate 19 0x00

/-- A registered SPI target. Every one is abstract (10_state.md R44): the SD card's internals are out of scope
(00_scope.md R4), and any other is a device the host names by a number. -/
inductive SpiTarget where
  | sdCard
  | device (ident : Nat)
deriving DecidableEq, Repr

/-- The operations the controller calls on an SPI target (41_spi_master.md R141). -/
inductive SpiOp where
  | select
  | deselect
  | transfer (mosi : Bit)
  | onSckFalling
  | reset
deriving DecidableEq, Repr

/-- An I2C target other than the RTC: a device the host names by a number, at its own fixed address
(43_i2c_targets.md R201, R202). -/
structure I2cDevice where
  ident : Nat
  addr : Addr7
deriving DecidableEq, Repr

/-- An I2C target: the RTC, the one target the spec defines, or an abstract device (43_i2c_targets.md R201, R205). -/
inductive I2cTarget where
  | rtc
  | device (d : I2cDevice)
deriving DecidableEq, Repr

/-- The operations the controller calls on an I2C target (43_i2c_targets.md R201). -/
inductive I2cOp where
  | start (isRead : Bit)
  | stop
  | writeByte (value : Byte)
  | readByte (masterWillAck : Bool)
  | reset
  | resetPointer
deriving DecidableEq, Repr

/-- One call of the controller on a target (00_scope.md R10 `call`). -/
inductive TargetCall where
  | spi (target : SpiTarget) (op : SpiOp)
  | i2c (target : I2cTarget) (op : I2cOp)
deriving DecidableEq, Repr

/-- The calendar time of one wall-clock draw, each field within its calendar range
(43_i2c_targets.md R213; 93_implementation_defined.md I9). Month, day and day of week count from 0 here;
`WallClock.month`, `WallClock.day` and `WallClock.dow` give them as the spec numbers them. -/
structure WallClock where
  year : Nat
  month0 : Fin 12
  day0 : Fin 31
  hour : Fin 24
  minute : Fin 60
  second : Fin 60
  dow0 : Fin 7
deriving DecidableEq, Repr, Inhabited

/-- The month, 1..12 (43_i2c_targets.md R213). -/
def WallClock.month (t : WallClock) : Nat := t.month0.val + 1

/-- The day of the month, 1..31 (43_i2c_targets.md R213). -/
def WallClock.day (t : WallClock) : Nat := t.day0.val + 1

/-- The day of the week, 1 = Sunday .. 7 = Saturday (43_i2c_targets.md R216). -/
def WallClock.dow (t : WallClock) : Nat := t.dow0.val + 1

/-- The default `SPI_TARGETS`: the SD card at index 0 (00_scope.md R7; 92_eei_decisions.md D39). -/
def Config.defaultSpiTargets : Vector (Option SpiTarget) 6 :=
  #v[some .sdCard, none, none, none, none, none]

/-- The default `I2C_TARGETS`: the RTC at 0x68 (00_scope.md R7; 92_eei_decisions.md D39). -/
def Config.defaultI2cTargets : List (Addr7 × I2cTarget) := [(0x68, .rtc)]

/-- The ranges `[start, end]` of the other devices of the source's memory map (20_memory.md R63). -/
def Config.otherDevices : List (Nat × Nat) := [(0x4000, 0x400F), (0x4020, 0x402F)]

/-- FREE VALUE (log 8; 93_implementation_defined.md I9 "any value"): the calendar time of the n-th wall-clock
draw, host wall-clock time plus the stored millisecond offset. Draws need not be equal or increasing. -/
opaque Config.wallClock (draw : Nat) (offsetMs : Int) : WallClock

/-- FREE VALUE (log 9; 92_eei_decisions.md D29 OPEN): `RTC_CENTURY`, the century bit of a calendar year. -/
opaque Config.rtcCentury (year : Nat) : Bit

/-- FREE VALUE (log 6; 41_spi_master.md R141): the bit a target's `transfer` returns, which may depend on every
call made to that target before and on the bit sent. -/
opaque Config.spiTransferBit (t : SpiTarget) (history : List SpiOp) (mosi : Bit) : Bit

/-- FREE VALUE (log 6; 41_spi_master.md R141): the query `is_selected()`, which no rule of the block makes. -/
opaque Config.spiIsSelected (t : SpiTarget) (history : List SpiOp) : Bool

/-- FREE VALUE (log 6; 41_spi_master.md R141): the query `name()`, which no rule of the block makes. -/
opaque Config.spiName (t : SpiTarget) : String

/-- FREE VALUE (log 7; 43_i2c_targets.md R201): the ack bit an abstract device's `start` returns. -/
opaque Config.i2cStartAck (d : I2cDevice) (history : List I2cOp) (isRead : Bit) : Bit

/-- FREE VALUE (log 7; 43_i2c_targets.md R201): the ack bit an abstract device's `write_byte` returns. -/
opaque Config.i2cWriteAck (d : I2cDevice) (history : List I2cOp) (value : Byte) : Bit

/-- FREE VALUE (log 7; 43_i2c_targets.md R201): the byte an abstract device's `read_byte` returns. -/
opaque Config.i2cReadValue (d : I2cDevice) (history : List I2cOp) (masterWillAck : Bool) : Byte

/-- FREE VALUE (log 7; 43_i2c_targets.md R201 "a target may lack it"): whether a device has `reset_pointer`. -/
opaque Config.i2cHasResetPointer (d : I2cDevice) : Bool

/-- FREE VALUE (log 7; 43_i2c_targets.md R201): the query `name()`, which no rule of the block makes. -/
opaque Config.i2cName (t : I2cTarget) : String

end Sys2Proof
end

