-- ==== Sys2Proof/Syntax.lean ====
section
/-! DEFINITION. The operations of spec/opcode_table.json, one constructor per row: the 32 bus cycles
(30_encoding.md R83) and the 10 line-event classes (R86). -/

namespace Sys2Proof

/-- One operation of the block. A write cycle carries its data byte `v`; a read cycle carries none, since its
encoding's data bits are ignored (30_encoding.md R81). EV_RISE and EV_FALL carry the two bits their rows leave
free, `sda_o` and `sda_n` (30_encoding.md R85, R86). -/
inductive Instr where
  /-- WR_ORB: 40_register_file.md R101. -/
  | wrOrb (v : Byte)
  /-- WR_ORA: 40_register_file.md R102. -/
  | wrOra (v : Byte)
  /-- WR_DDRB: 40_register_file.md R103. -/
  | wrDdrb (v : Byte)
  /-- WR_DDRA: 40_register_file.md R104. -/
  | wrDdra (v : Byte)
  /-- WR_TMR4: 40_register_file.md R105. -/
  | wrTmr4 (v : Byte)
  /-- WR_TMR5: 40_register_file.md R106. -/
  | wrTmr5 (v : Byte)
  /-- WR_TMR6: 40_register_file.md R107. -/
  | wrTmr6 (v : Byte)
  /-- WR_TMR7: 40_register_file.md R108. -/
  | wrTmr7 (v : Byte)
  /-- WR_TMR8: 40_register_file.md R109. -/
  | wrTmr8 (v : Byte)
  /-- WR_TMR9: 40_register_file.md R110. -/
  | wrTmr9 (v : Byte)
  /-- WR_SR: 40_register_file.md R111. -/
  | wrSr (v : Byte)
  /-- WR_ACR: 40_register_file.md R112. -/
  | wrAcr (v : Byte)
  /-- WR_PCR: 40_register_file.md R113. -/
  | wrPcr (v : Byte)
  /-- WR_IFR: 40_register_file.md R114. -/
  | wrIfr (v : Byte)
  /-- WR_IER: 40_register_file.md R115. -/
  | wrIer (v : Byte)
  /-- WR_ORA15: 40_register_file.md R116. -/
  | wrOra15 (v : Byte)
  /-- RD_ORB: 40_register_file.md R117. -/
  | rdOrb
  /-- RD_ORA: 40_register_file.md R118. -/
  | rdOra
  /-- RD_DDRB: 40_register_file.md R119. -/
  | rdDdrb
  /-- RD_DDRA: 40_register_file.md R120. -/
  | rdDdra
  /-- RD_TMR4: 40_register_file.md R121. -/
  | rdTmr4
  /-- RD_TMR5: 40_register_file.md R122. -/
  | rdTmr5
  /-- RD_TMR6: 40_register_file.md R123. -/
  | rdTmr6
  /-- RD_TMR7: 40_register_file.md R124. -/
  | rdTmr7
  /-- RD_TMR8: 40_register_file.md R125. -/
  | rdTmr8
  /-- RD_TMR9: 40_register_file.md R126. -/
  | rdTmr9
  /-- RD_SR: 40_register_file.md R127. -/
  | rdSr
  /-- RD_ACR: 40_register_file.md R128. -/
  | rdAcr
  /-- RD_PCR: 40_register_file.md R129. -/
  | rdPcr
  /-- RD_IFR: 40_register_file.md R130. -/
  | rdIfr
  /-- RD_IER: 40_register_file.md R131. -/
  | rdIer
  /-- RD_ORA15: 40_register_file.md R132. -/
  | rdOra15
  /-- EV_START, code 1110: 42_i2c_framer.md R166. -/
  | evStart
  /-- EV_STOP, code 1011: 42_i2c_framer.md R167, R168. -/
  | evStop
  /-- EV_RISE, codes 0x1x: 42_i2c_framer.md R169, R170, R171. -/
  | evRise (sdaO sdaN : Bit)
  /-- EV_FALL, codes 1x0x: 42_i2c_framer.md R172. -/
  | evFall (sdaO sdaN : Bit)
  /-- EV_SETUP_SDA_RISE, code 0001: 42_i2c_framer.md R165. -/
  | evSetupSdaRise
  /-- EV_SETUP_SDA_FALL, code 0100: 42_i2c_framer.md R165. -/
  | evSetupSdaFall
  /-- EV_NOCHANGE_0, code 0000: 42_i2c_framer.md R161. -/
  | evNochange0
  /-- EV_NOCHANGE_5, code 0101: 42_i2c_framer.md R161. -/
  | evNochange5
  /-- EV_NOCHANGE_A, code 1010: 42_i2c_framer.md R161. -/
  | evNochangeA
  /-- EV_NOCHANGE_F, code 1111: 42_i2c_framer.md R161. -/
  | evNochangeF
deriving DecidableEq, Repr

end Sys2Proof
end

