-- ==== Sys2Proof/WellFormed.lean ====
section
/-! DEFINITION. What is well formed: an operation, a configuration, an I2C registry, an encoded record. -/

namespace Sys2Proof

/-- Every operation is well formed: all 32 (W, off) pairs are defined and every data value is legal for every
write (30_encoding.md R84), and every line-transition code has a class (R86). The operand types hold exactly
the bits the encoding admits, so there is nothing left to check. -/
def Instr.wellFormed (_i : Instr) : Bool := true

/-- `BASE + 15 <= 0xFFFF` (00_scope.md R7). -/
def Config.wellFormed (c : Config) : Bool := decide (c.base.toNat + 15 ≤ 0xFFFF)

/-- The controller's range `[BASE, BASE + 15]` overlaps none of the ranges of `others` (60_exceptions.md R244,
20_memory.md R61). -/
def Config.rangeFree (c : Config) (others : List (Nat × Nat)) : Bool :=
  others.all fun r => decide (c.base.toNat + 15 < r.1) || decide (r.2 < c.base.toNat)

/-- The address a target is registered under (43_i2c_targets.md R202): the RTC's is fixed at 0x68 (R205). -/
def I2cTarget.address (t : I2cTarget) : Addr7 :=
  match t with
  | .rtc => 0x68
  | .device d => d.addr

/-- The canonical form of an I2C registry: addresses strictly rising (so at most one target each), and each
target under its own address (43_i2c_targets.md R202). -/
def registryWellFormed : List (Addr7 × I2cTarget) → Bool
  | [] => true
  | [e] => decide (e.2.address = e.1)
  | e :: f :: rest =>
    decide (e.2.address = e.1) && decide (e.1.toNat < f.1.toNat) && registryWellFormed (f :: rest)

/-- An encoded record is two bytes for a bus-cycle word, of which the three bits above the 13-bit word are 0, or
one byte for a line-transition code, of which the four bits above the 4-bit code are 0 (30_encoding.md R81,
R85; the bytes are the model's convention, log 2). -/
def recordWellFormed (bytes : List Byte) : Bool :=
  match bytes with
  | [b] => decide (b.extractLsb' 4 4 = 0)
  | [_, hi] => decide (hi.extractLsb' 5 3 = 0)
  | _ => false

end Sys2Proof
end

