-- ==== Sys2Proof/Decode.lean ====
section
/-! DEFINITION. The decoder, total on any bytes, and the encoder (30_encoding.md). A record of two bytes is a
bus-cycle word, a record of one byte a line-transition code; which of the two it is follows from its length
(log 2). Anything else is rejected by name. -/

namespace Sys2Proof

/-- Why a record encodes no operation. -/
inductive DecodeError where
  /-- The record is neither one byte nor two. -/
  | badLength
  /-- Two bytes with a bit set above the 13-bit bus-cycle word (30_encoding.md R81). -/
  | bitsAboveCycleWord
  /-- One byte with a bit set above the 4-bit line-transition code (30_encoding.md R85). -/
  | bitsAboveLineCode
deriving DecidableEq, Repr

/-- An operation's encoding: one of the two coded inputs of opcode_table.json. -/
inductive CodedWord where
  | cycle (w : CycleWord)
  | line (c : LineCode)
deriving DecidableEq, Repr

/-- The bus-cycle word `(W << 12) | (off << 8) | data` (30_encoding.md R81). -/
def cycleWord (w : Bit) (off : BitVec 4) (data : Byte) : CycleWord :=
  (w.setWidth 13 <<< 12) ||| (off.setWidth 13 <<< 8) ||| data.setWidth 13

/-- Field W, bit 12 (30_encoding.md R81). -/
def cycleW (w : CycleWord) : Bit := w.extractLsb' 12 1

/-- Field off, bits 11:8 (30_encoding.md R81). -/
def cycleOff (w : CycleWord) : BitVec 4 := w.extractLsb' 8 4

/-- Field data, bits 7:0 (30_encoding.md R81). -/
def cycleData (w : CycleWord) : Byte := w.extractLsb' 0 8

/-- The write column of the offset map (30_encoding.md R83). The last arm is offset 15, the one left. -/
def decodeWrite (off : BitVec 4) (v : Byte) : Instr :=
  match off.toNat with
  | 0 => .wrOrb v
  | 1 => .wrOra v
  | 2 => .wrDdrb v
  | 3 => .wrDdra v
  | 4 => .wrTmr4 v
  | 5 => .wrTmr5 v
  | 6 => .wrTmr6 v
  | 7 => .wrTmr7 v
  | 8 => .wrTmr8 v
  | 9 => .wrTmr9 v
  | 10 => .wrSr v
  | 11 => .wrAcr v
  | 12 => .wrPcr v
  | 13 => .wrIfr v
  | 14 => .wrIer v
  | _ => .wrOra15 v

/-- The read column of the offset map (30_encoding.md R83). The last arm is offset 15, the one left. -/
def decodeRead (off : BitVec 4) : Instr :=
  match off.toNat with
  | 0 => .rdOrb
  | 1 => .rdOra
  | 2 => .rdDdrb
  | 3 => .rdDdra
  | 4 => .rdTmr4
  | 5 => .rdTmr5
  | 6 => .rdTmr6
  | 7 => .rdTmr7
  | 8 => .rdTmr8
  | 9 => .rdTmr9
  | 10 => .rdSr
  | 11 => .rdAcr
  | 12 => .rdPcr
  | 13 => .rdIfr
  | 14 => .rdIer
  | _ => .rdOra15

/-- A bus-cycle word's operation, decoded by (W, off) alone (30_encoding.md R96); a read ignores its data field
(R81). -/
def decodeCycle (w : CycleWord) : Instr :=
  if cycleW w = 1 then decodeWrite (cycleOff w) (cycleData w) else decodeRead (cycleOff w)

/-- Bit 3 of a line-transition code: SCL before the write (30_encoding.md R85). -/
def lineSclOld (c : LineCode) : Bit := c.extractLsb' 3 1

/-- Bit 2: SDA before the write (30_encoding.md R85). -/
def lineSdaOld (c : LineCode) : Bit := c.extractLsb' 2 1

/-- Bit 1: SCL after the write (30_encoding.md R85). -/
def lineSclNew (c : LineCode) : Bit := c.extractLsb' 1 1

/-- Bit 0: SDA after the write (30_encoding.md R85). -/
def lineSdaNew (c : LineCode) : Bit := c.extractLsb' 0 1

/-- The line-transition code of four levels (30_encoding.md R85; the formula of 42_i2c_framer.md R161). -/
def lineCode (sclO sdaO sclN sdaN : Bit) : LineCode :=
  (sclO.setWidth 4 <<< 3) ||| (sdaO.setWidth 4 <<< 2) ||| (sclN.setWidth 4 <<< 1) ||| sdaN.setWidth 4

/-- The event class of each of the sixteen codes, the table of 30_encoding.md R86. The last arm is 1111. -/
def decodeLine (c : LineCode) : Instr :=
  match c.toNat with
  | 0b0000 => .evNochange0
  | 0b0001 => .evSetupSdaRise
  | 0b0010 => .evRise 0 0
  | 0b0011 => .evRise 0 1
  | 0b0100 => .evSetupSdaFall
  | 0b0101 => .evNochange5
  | 0b0110 => .evRise 1 0
  | 0b0111 => .evRise 1 1
  | 0b1000 => .evFall 0 0
  | 0b1001 => .evFall 0 1
  | 0b1010 => .evNochangeA
  | 0b1011 => .evStop
  | 0b1100 => .evFall 1 0
  | 0b1101 => .evFall 1 1
  | 0b1110 => .evStart
  | _ => .evNochangeF

/-- An operation's word or code. -/
def decodeCoded (w : CodedWord) : Instr :=
  match w with
  | .cycle w => decodeCycle w
  | .line c => decodeLine c

/-- The word or code a record's bytes hold, the low byte of a bus-cycle word first (log 2). -/
def readRecord (bytes : List Byte) : Except DecodeError CodedWord :=
  match bytes with
  | [b] => if b.extractLsb' 4 4 = 0 then .ok (.line (b.extractLsb' 0 4)) else .error .bitsAboveLineCode
  | [lo, hi] =>
    if hi.extractLsb' 5 3 = 0 then .ok (.cycle ((hi.setWidth 13 <<< 8) ||| lo.setWidth 13))
    else .error .bitsAboveCycleWord
  | _ => .error .badLength

/-- THE DECODER: the operation a record's bytes encode, or why they encode none. -/
def decode (bytes : List Byte) : Except DecodeError Instr :=
  match readRecord bytes with
  | .ok w => .ok (decodeCoded w)
  | .error e => .error e

/-- The word or code of an operation, from the encoding lines of 40_register_file.md R101-R132 and the codes of
30_encoding.md R86. -/
def encodeCoded (i : Instr) : CodedWord :=
  match i with
  | .wrOrb v => .cycle (cycleWord 1 0 v)
  | .wrOra v => .cycle (cycleWord 1 1 v)
  | .wrDdrb v => .cycle (cycleWord 1 2 v)
  | .wrDdra v => .cycle (cycleWord 1 3 v)
  | .wrTmr4 v => .cycle (cycleWord 1 4 v)
  | .wrTmr5 v => .cycle (cycleWord 1 5 v)
  | .wrTmr6 v => .cycle (cycleWord 1 6 v)
  | .wrTmr7 v => .cycle (cycleWord 1 7 v)
  | .wrTmr8 v => .cycle (cycleWord 1 8 v)
  | .wrTmr9 v => .cycle (cycleWord 1 9 v)
  | .wrSr v => .cycle (cycleWord 1 10 v)
  | .wrAcr v => .cycle (cycleWord 1 11 v)
  | .wrPcr v => .cycle (cycleWord 1 12 v)
  | .wrIfr v => .cycle (cycleWord 1 13 v)
  | .wrIer v => .cycle (cycleWord 1 14 v)
  | .wrOra15 v => .cycle (cycleWord 1 15 v)
  | .rdOrb => .cycle (cycleWord 0 0 0)
  | .rdOra => .cycle (cycleWord 0 1 0)
  | .rdDdrb => .cycle (cycleWord 0 2 0)
  | .rdDdra => .cycle (cycleWord 0 3 0)
  | .rdTmr4 => .cycle (cycleWord 0 4 0)
  | .rdTmr5 => .cycle (cycleWord 0 5 0)
  | .rdTmr6 => .cycle (cycleWord 0 6 0)
  | .rdTmr7 => .cycle (cycleWord 0 7 0)
  | .rdTmr8 => .cycle (cycleWord 0 8 0)
  | .rdTmr9 => .cycle (cycleWord 0 9 0)
  | .rdSr => .cycle (cycleWord 0 10 0)
  | .rdAcr => .cycle (cycleWord 0 11 0)
  | .rdPcr => .cycle (cycleWord 0 12 0)
  | .rdIfr => .cycle (cycleWord 0 13 0)
  | .rdIer => .cycle (cycleWord 0 14 0)
  | .rdOra15 => .cycle (cycleWord 0 15 0)
  | .evStart => .line 0b1110
  | .evStop => .line 0b1011
  | .evRise sdaO sdaN => .line (lineCode 0 sdaO 1 sdaN)
  | .evFall sdaO sdaN => .line (lineCode 1 sdaO 0 sdaN)
  | .evSetupSdaRise => .line 0b0001
  | .evSetupSdaFall => .line 0b0100
  | .evNochange0 => .line 0b0000
  | .evNochange5 => .line 0b0101
  | .evNochangeA => .line 0b1010
  | .evNochangeF => .line 0b1111

/-- The bytes of a word or code, the low byte first (log 2). -/
def recordOf (w : CodedWord) : List Byte :=
  match w with
  | .cycle w => [w.extractLsb' 0 8, (w.extractLsb' 8 5).setWidth 8]
  | .line c => [c.setWidth 8]

/-- THE ENCODER: the record of an operation. -/
def encode (i : Instr) : List Byte := recordOf (encodeCoded i)

/-- The line-transition code of a line-event operation; none for a bus cycle. -/
def lineCodeOf (i : Instr) : Option LineCode :=
  match encodeCoded i with
  | .line c => some c
  | .cycle _ => none

/-- `n` bytes of a number, least significant first. -/
def bytesOf (n w : Nat) : List Byte :=
  match n with
  | 0 => []
  | n + 1 => BitVec.ofNat 8 w :: bytesOf n (w / 256)

/-- The record of an instruction of `nbits` table bits whose bits are `w`: 13-bit rows fill two bytes, 4-bit rows
one. -/
def tableRecord (nbits w : Nat) : List Byte := bytesOf ((nbits + 7) / 8) w

/-- The operation the decoder reads from a table word (the host's question). -/
def decodeTableWord (nbits w : Nat) : Option Instr :=
  match decode (tableRecord nbits w) with
  | .ok i => some i
  | .error _ => none

end Sys2Proof
end

