-- ==== Sys2Proof/Machine/State.lean ====
section
/-! DEFINITION. The machine's state as plain data (10_state.md), the inputs a step reads, the reasons a step can
stop, and the state right after reset (70_reset_and_hazards.md R261, R263). -/

namespace Sys2Proof.Machine

/-- `i2c_state` (10_state.md R32). -/
inductive I2cState where
  | idle
  | address
  | dataWrite
  | dataRead
deriving DecidableEq, Repr

/-- The state of the RTC target (10_state.md R43). -/
structure Rtc where
  /-- `rtc_addr`, constant (43_i2c_targets.md R205). -/
  addr : Addr7
  /-- `rtc_ptr`, 0..18. -/
  ptr : Fin 19
  /-- `rtc_in_txn`: written, read by no rule (43_i2c_targets.md R207). -/
  inTxn : Bit
  /-- `rtc_read_mode`: written, read by no rule (43_i2c_targets.md R207). -/
  readMode : Bit
  /-- `rtc_expect_ptr`. -/
  expectPtr : Bit
  /-- `rtc_reg[0..18]` (43_i2c_targets.md R206). -/
  reg : Vector Byte 19
  /-- `rtc_offset_ms`, never changed by any rule (43_i2c_targets.md R218). -/
  offsetMs : Int
deriving DecidableEq, Repr

/-- What the host may do between bus cycles (70_reset_and_hazards.md R280; 43_i2c_targets.md R204). -/
inductive HostAction where
  | reset
  | registerI2c (t : I2cTarget)
  | unregisterI2c (a : Addr7)
  | registerSpi (i : CsIndex) (t : SpiTarget)
  | unregisterSpi (i : CsIndex)
deriving DecidableEq, Repr

/-- One pending input: what the CPU's bus or the host does to the block next (log 1). -/
inductive Input where
  /-- An encoded operation (30_encoding.md R81, R85), as its record's bytes. -/
  | record (bytes : List Byte)
  /-- `MemRead(addr, 1)` (20_memory.md R62). -/
  | memRead (addr : BusAddr)
  /-- `MemWrite(addr, 1, v)` (20_memory.md R62). -/
  | memWrite (addr : BusAddr) (v : Byte)
  /-- A read at an offset a bus frame delivers, 16 or more included (40_register_file.md R133). -/
  | offRead (off : Nat)
  /-- A write at an offset a bus frame delivers, 16 or more included (40_register_file.md R133). -/
  | offWrite (off : Nat) (v : Byte)
  /-- A host action. -/
  | host (a : HostAction)
deriving DecidableEq, Repr

/-- The state of the block and of the targets the spec defines, the configuration, and the model's own four
fields (INVENTORY.md, heading State). -/
structure State where
  /-- The configuration of 00_scope.md R7; no step changes it (log 10). -/
  cfg : Config
  /-- ORB, port B (10_state.md R23). -/
  orb : Byte
  /-- ORA, port A, at offsets 1 and 15 (10_state.md R22). -/
  ora : Byte
  /-- DDRB (10_state.md R25). -/
  ddrb : Byte
  /-- DDRA: bits 6 and 7 drive SCL and SDA LOW (10_state.md R24). -/
  ddra : Byte
  /-- TMR4..TMR9, six independent cells (10_state.md R26). -/
  tmr4 : Byte
  tmr5 : Byte
  tmr6 : Byte
  tmr7 : Byte
  tmr8 : Byte
  tmr9 : Byte
  /-- SR, ACR and PCR, storage (10_state.md R27). -/
  sr : Byte
  acr : Byte
  pcr : Byte
  /-- IFR bits 6..0 (10_state.md R28). -/
  ifr : BitVec 7
  /-- IER bits 6..0 (10_state.md R29). -/
  ier : BitVec 7
  /-- `spi_last_sck` (10_state.md R30). -/
  spiLastSck : Bit
  /-- `spi_sel`, none for -1 (10_state.md R31). -/
  spiSel : Option CsIndex
  /-- `i2c_state` (10_state.md R32). -/
  i2cState : I2cState
  /-- `i2c_last_scl` (10_state.md R33). -/
  i2cLastScl : Bit
  /-- `i2c_last_sda` (10_state.md R33). -/
  i2cLastSda : Bit
  /-- `i2c_bitcnt`, 0..9 (10_state.md R34). -/
  i2cBitcnt : Fin 10
  /-- `i2c_shift` (10_state.md R35). -/
  i2cShift : Byte
  /-- `i2c_target`, none for NONE (10_state.md R36). -/
  i2cTarget : Option Addr7
  /-- `i2c_rw`, 1 = read (10_state.md R37). -/
  i2cRw : Bit
  /-- `i2c_rdbyte` (10_state.md R38). -/
  i2cRdbyte : Byte
  /-- `i2c_slave_ack`, 0 = ACK (10_state.md R39). -/
  i2cSlaveAck : Bit
  /-- The RTC target (10_state.md R43). -/
  rtc : Rtc
  /-- `via_irq`, constantly 0 (10_state.md R45). -/
  viaIrq : Bit
  /-- `I2C_TARGETS`, by rising address (43_i2c_targets.md R202). -/
  i2cTargets : List (Addr7 × I2cTarget)
  /-- `SPI_TARGETS` (41_spi_master.md R142, R150). -/
  spiTargets : Vector (Option SpiTarget) 6
  /-- The model's own: every target call made, oldest first (log 5). -/
  calls : List TargetCall
  /-- The model's own: how many wall-clock draws were made (log 8). -/
  wallDraws : Nat
  /-- The model's own: the byte the last read returned, none before the first read (log 4). -/
  lastRead : Option Byte
  /-- The model's own: the pending inputs, oldest first (log 1). -/
  trace : List Input
deriving DecidableEq, Repr

/-- The block raises no exception, trap or fault (60_exceptions.md R241): there is no fault to name. -/
inductive Fault where
deriving DecidableEq, Repr

/-- Why a step has no meaning. None is raised by an operation of the opcode table. -/
inductive Refusal where
  /-- An arm of `exec` without a meaning; no arm raises it. Safe. -/
  | notModelled (mnemonic : String)
  /-- Raised by a step whose record encodes no operation (30_encoding.md R81, R85). Safe: no hardware input has
  this form. -/
  | badRecord (e : DecodeError)
  /-- Raised by a step whose record is a line-transition code whose old levels are not the framer's last levels:
  no write produces that code in that state (30_encoding.md R85). Safe (log 3). -/
  | lineLevelsDiffer (code : LineCode)
  /-- Raised by a memory access outside `[BASE, BASE + 15]`: it never reaches this block
  (20_memory.md R62; 93_implementation_defined.md I14 "refuse"). Safe (log 11). -/
  | addressOfNoRegister (addr : BusAddr)
  /-- Raised by construction, never by a step: `BASE + 15 > 0xFFFF` or an ill-formed registry (00_scope.md R7). Safe. -/
  | badConfiguration
  /-- Raised by construction, never by a step: the range overlaps another device, "fatal at setup"
  (60_exceptions.md R244). Safe. -/
  | overlapsAnotherDevice
deriving DecidableEq, Repr

/-- The RTC as constructed (10_state.md R43; 70_reset_and_hazards.md R263). -/
def Rtc.constructed (c : Config) : Rtc where
  addr := 0x68
  ptr := 0
  inTxn := 0
  readMode := 0
  expectPtr := 0
  reg := c.rtcRegReset
  offsetMs := 0

/-- Every field at its reset value under a configuration and its registries, with no target call made yet
(10_state.md R21, R30-R39, R43, R45; the model's own fields: log 18). -/
def State.initial (c : Config) (i2c : List (Addr7 × I2cTarget)) (spi : Vector (Option SpiTarget) 6) : State where
  cfg := c
  orb := 0x00
  ora := 0x00
  ddrb := 0x00
  ddra := 0x00
  tmr4 := 0xFF
  tmr5 := 0xFF
  tmr6 := 0xFF
  tmr7 := 0xFF
  tmr8 := 0xFF
  tmr9 := 0xFF
  sr := 0x00
  acr := 0x00
  pcr := 0x00
  ifr := 0
  ier := 0
  spiLastSck := 0
  spiSel := none
  i2cState := .idle
  i2cLastScl := 1
  i2cLastSda := 1
  i2cBitcnt := 0
  i2cShift := 0x00
  i2cTarget := none
  i2cRw := 0
  i2cRdbyte := 0x00
  i2cSlaveAck := 0
  rtc := Rtc.constructed c
  viaIrq := 0
  i2cTargets := i2c
  spiTargets := spi
  calls := []
  wallDraws := 0
  lastRead := none
  trace := []

/-- The machine right after reset in the default configuration: `RESET()` has deselected and reset the SD card
and reset the RTC, in that order (70_reset_and_hazards.md R261-R263). -/
def State.reset : State :=
  { State.initial Config.default Config.defaultI2cTargets Config.defaultSpiTargets with
    calls := [.spi .sdCard .deselect, .spi .sdCard .reset, .i2c .rtc .reset] }

end Sys2Proof.Machine
end

