-- ==== Sys2Proof/Machine/Operands.lean ====
section
/-! DEFINITION. The operand forms: which offset an address is, the effective line levels, the line-transition
code and its class, the chip-select field, the address byte's fields, BCD. -/

namespace Sys2Proof.Machine

/-- Whether an address lies in `[BASE, BASE + 15]` (20_memory.md R61, R62). -/
def inRange (c : Config) (addr : BusAddr) : Bool :=
  decide (c.base.toNat ≤ addr.toNat) && decide (addr.toNat ≤ c.base.toNat + 15)

/-- `off = (addr - BASE)[3:0]` (30_encoding.md R82). -/
def offsetOf (c : Config) (addr : BusAddr) : BitVec 4 := (addr - c.base).extractLsb' 0 4

/-- The read cycle at an offset, by way of its bus-cycle word (30_encoding.md R81, R83). -/
def readAt (off : BitVec 4) : Instr := decodeCycle (cycleWord 0 off 0)

/-- The write cycle at an offset, by way of its bus-cycle word (30_encoding.md R81, R83). -/
def writeAt (off : BitVec 4) (v : Byte) : Instr := decodeCycle (cycleWord 1 off v)

/-- `scl_level = ~DDRA[6]` (10_state.md R24). -/
def sclLevel (ddra : Byte) : Bit := ~~~ (ddra.extractLsb' 6 1)

/-- `sda_level = ~DDRA[7]` (10_state.md R24). -/
def sdaLevel (ddra : Byte) : Bit := ~~~ (ddra.extractLsb' 7 1)

/-- The DDRA value that gives the lines the levels `scl` and `sda` and keeps bits 5..0
(30_encoding.md R91). -/
def ddraFor (scl sda : Bit) (ddra : Byte) : Byte :=
  (ddra &&& 0x3F#8) ||| ((~~~ scl).setWidth 8 <<< 6) ||| ((~~~ sda).setWidth 8 <<< 7)

/-- The classes of 42_i2c_framer.md R162, and no change. -/
inductive EventClass where
  | noChange
  | start
  | stop
  | rise
  | fall
  | setup
deriving DecidableEq, Repr

/-- `EVENT_CLASS(code)`, in the words of 42_i2c_framer.md R162: START and STOP need SCL HIGH before and after;
RISE and FALL are the SCL changes, whatever SDA does (R164); SETUP is a change of SDA with SCL LOW. -/
def eventClass (c : LineCode) : EventClass :=
  if lineSclOld c = 0 ∧ lineSclNew c = 1 then .rise
  else if lineSclOld c = 1 ∧ lineSclNew c = 0 then .fall
  else if lineSdaOld c = lineSdaNew c then .noChange
  else if lineSclOld c = 0 then .setup
  else if lineSdaOld c = 1 then .start
  else .stop

/-- `CS_DECODE(f)` on the field ORA[5:0]: the index of the one cleared bit; none when all are set or several are
cleared (41_spi_master.md R143, 30_encoding.md R90). -/
def csDecode (f : BitVec 6) : Option CsIndex :=
  match ((~~~ f) : BitVec 6).toNat with
  | 0b000001 => some 0
  | 0b000010 => some 1
  | 0b000100 => some 2
  | 0b001000 => some 3
  | 0b010000 => some 4
  | 0b100000 => some 5
  | _ => none

/-- The chip-select field ORA[5:0] (41_spi_master.md R143). -/
def csField (ora : Byte) : BitVec 6 := ora.extractLsb' 0 6

/-- Port B bit 0, MOSI (00_scope.md R6). -/
def mosiOf (orb : Byte) : Bit := orb.extractLsb' 0 1

/-- Port B bit 2, SCK (00_scope.md R6). -/
def sckOf (orb : Byte) : Bit := orb.extractLsb' 2 1

/-- Port B with bit 1, MISO, replaced: `(ORB & ~0x02) | (b << 1)` (41_spi_master.md R146). -/
def withMiso (orb : Byte) (b : Bit) : Byte := (orb &&& ~~~ 0x02#8) ||| (b.setWidth 8 <<< 1)

/-- A port-B write changes only the bits whose direction bit is 1: `(ORB & ~DDRB) | (v & DDRB)`
(40_register_file.md R101). -/
def maskedWrite (orb ddrb v : Byte) : Byte := (orb &&& ~~~ ddrb) ||| (v &&& ddrb)

/-- `addr7 = byte[7:1]` (30_encoding.md R87). -/
def addressOf (b : Byte) : Addr7 := b.extractLsb' 1 7

/-- `rw = byte[0]`, 1 = read (30_encoding.md R87). -/
def rwOf (b : Byte) : Bit := b.extractLsb' 0 1

/-- `((i2c_shift << 1) | sda)[7:0]`, most significant bit first (42_i2c_framer.md R169). -/
def shiftIn (shift : Byte) (sda : Bit) : Byte := (shift <<< 1) ||| sda.setWidth 8

/-- `BCD(n)` for `0 <= n <= 99` (43_i2c_targets.md R215). -/
def bcd (n : Nat) : Byte := BitVec.ofNat 8 (((n / 10) <<< 4) ||| (n % 10))

end Sys2Proof.Machine
end

