-- ==== Sys2Proof/Machine/Flags.lean ====
section
/-! DEFINITION. The one-bit results: IFR and IER reads and writes, the SDA read-back, the interrupt output's
enable and pending bits (60_exceptions.md R246). -/

namespace Sys2Proof.Machine

/-- `any`, the bit 7 of an IFR read: some IFR bit is set (40_register_file.md R130). -/
def ifrAny (ifr : BitVec 7) : Bit := if ifr = 0 then 0 else 1

/-- What a read of IFR returns: `(any << 7) | IFR[6:0]` (40_register_file.md R130). -/
def ifrRead (ifr : BitVec 7) : Byte := ((ifrAny ifr).setWidth 8 <<< 7) ||| ifr.setWidth 8

/-- IFR after a write: each 1 in `v[6:0]` clears its bit, `v[7]` is ignored (40_register_file.md R114). -/
def ifrAfterWrite (ifr : BitVec 7) (v : Byte) : BitVec 7 := ifr &&& ~~~ (v.extractLsb' 0 7)

/-- What a read of IER returns: `0x80 | IER[6:0]` (40_register_file.md R131). -/
def ierRead (ier : BitVec 7) : Byte := 0x80#8 ||| ier.setWidth 8

/-- IER after a write: `v[7] = 1` sets the bits of `v[6:0]`, `v[7] = 0` clears them (40_register_file.md R115). -/
def ierAfterWrite (ier : BitVec 7) (v : Byte) : BitVec 7 :=
  if v.extractLsb' 7 1 = 1 then ier ||| v.extractLsb' 0 7 else ier &&& ~~~ (v.extractLsb' 0 7)

/-- `SDA_OUT()`, first match wins (42_i2c_framer.md R180): in DATA_READ at counter 1..8 the staged byte's bits,
most significant first; in any active state at counter 8 or 9 the latched slave ACK; else 1. -/
def sdaOut (s : State) : Bit :=
  if s.i2cState = .dataRead ∧ 1 ≤ s.i2cBitcnt.val ∧ s.i2cBitcnt.val ≤ 8 then
    s.i2cRdbyte.extractLsb' (8 - s.i2cBitcnt.val) 1
  else if s.i2cState ≠ .idle ∧ 8 ≤ s.i2cBitcnt.val then s.i2cSlaveAck
  else 1

/-- What a port-A read returns: bit 7 is `SDA_OUT()` while DDRA[7] = 0, else the stored bit; bits 6..0 are the
stored bits (40_register_file.md R118). -/
def portARead (s : State) : Byte :=
  if s.ddra.extractLsb' 7 1 = 0 then (s.ora &&& 0x7F#8) ||| ((sdaOut s).setWidth 8 <<< 7) else s.ora

end Sys2Proof.Machine
end

