-- ==== Sys2Proof/Machine/Rtc.lean ====
section
/-! DEFINITION. The real-time clock target's operations on its own state (43_i2c_targets.md R205-R218). -/

namespace Sys2Proof.Machine

/-- `start(is_read)` leaves this state and returns 0, ACK (43_i2c_targets.md R207). -/
def rtcStart (isRead : Bit) (r : Rtc) : Rtc := { r with inTxn := 1, readMode := isRead }

/-- `stop()` (43_i2c_targets.md R208). -/
def rtcStop (r : Rtc) : Rtc := { r with inTxn := 0, expectPtr := 0 }

/-- `reset_pointer()` (43_i2c_targets.md R209). -/
def rtcResetPointer (r : Rtc) : Rtc := { r with ptr := 0, expectPtr := 1 }

/-- The pointer one register on, modulo 19 (43_i2c_targets.md R211, R212). -/
def rtcNext (p : Fin 19) : Fin 19 := p + 1

/-- The pointer a pointer byte gives, as `RTC_PTR_OOR` says (43_i2c_targets.md R210). -/
def rtcPointerOf (c : Config) (v : Byte) : Fin 19 :=
  match c.ptrOor with
  | .mod19 => Fin.ofNat 19 v.toNat

/-- What a data byte stores into register `r` that held `old` (43_i2c_targets.md R211): register 0x0F keeps its
bits 7..2 and takes or toggles the low two, as `RTC_STATUS_WRITE` says; every other stores the byte whole. -/
def rtcStored (c : Config) (r : Fin 19) (old v : Byte) : Byte :=
  if r = 0x0F then
    match c.statusWrite with
    | .replaceLow2 => (old &&& 0xFC#8) ||| (v &&& 0x03#8)
    | .xorLow2 => old ^^^ (v &&& 0x03#8)
  else v

/-- `write_byte(v)` leaves this state and returns 0, ACK: the pointer byte (43_i2c_targets.md R210), or a data
byte stored at the pointer, which moves on (R211). -/
def rtcWriteByte (c : Config) (v : Byte) (r : Rtc) : Rtc :=
  if r.expectPtr = 1 then { r with ptr := rtcPointerOf c v, expectPtr := 0 }
  else { r with reg := r.reg.set r.ptr (rtcStored c r.ptr r.reg[r.ptr] v), ptr := rtcNext r.ptr }

/-- `TIME_REG(r, t)` for r = 0x00..0x06 (43_i2c_targets.md R214); it is asked for no other r. -/
def timeReg (r : Fin 19) (t : WallClock) : Byte :=
  match r.val with
  | 0x00 => bcd t.second.val
  | 0x01 => bcd t.minute.val
  | 0x02 => bcd t.hour.val
  | 0x03 => BitVec.ofNat 8 t.dow
  | 0x04 => bcd t.day
  | 0x05 => ((Config.rtcCentury t.year).setWidth 8 <<< 7) ||| bcd t.month
  | _ => bcd (t.year % 100)

/-- `RTC_LOAD(r)` at the clock time `t`, which only the time registers use (43_i2c_targets.md R213). -/
def rtcLoad (r : Fin 19) (t : WallClock) (rtc : Rtc) : Byte :=
  if r.val ≤ 0x06 then timeReg r t else rtc.reg[r]

/-- `read_byte` leaves this state: the pointer moves on, whatever its argument (43_i2c_targets.md R212). -/
def rtcAfterRead (r : Rtc) : Rtc := { r with ptr := rtcNext r.ptr }

/-- `reset()`: everything but the millisecond offset (43_i2c_targets.md R217). -/
def rtcReset (c : Config) (r : Rtc) : Rtc :=
  { r with ptr := 0, inTxn := 0, readMode := 0, expectPtr := 0, reg := c.rtcRegReset }

end Sys2Proof.Machine
end

