-- ==== Sys2Proof/Machine/Ops.lean ====
section
/-! DEFINITION. The calls on targets and the registries (42_i2c_framer.md R179, 43_i2c_targets.md R201-R204,
41_spi_master.md R141, R142), and a read cycle's answer.

There is no exception entry and no return from one to share here: the block raises nothing
(60_exceptions.md R241, R248). -/

namespace Sys2Proof.Machine

/-- The state after a read cycle that returns `v`: nothing of the block changes (20_memory.md R68); the value
returned stands in the model's own `lastRead` (log 4). -/
def State.answer (s : State) (v : Byte) : State := { s with lastRead := some v }

/-- A target call happens: it is appended to the calls made (log 5). -/
def State.logCall (s : State) (c : TargetCall) : State := { s with calls := s.calls ++ [c] }

/-! ### SPI targets -/

/-- The calls made to an SPI target so far, oldest first: the model's stand-in for its state (log 6). -/
def spiHistory (t : SpiTarget) (calls : List TargetCall) : List SpiOp :=
  calls.filterMap fun c =>
    match c with
    | .spi t' op => if t' = t then some op else none
    | .i2c _ _ => none

/-- `SPI_TARGET()`: the target registered at the selected index; none when no index is selected or none is
registered there (41_spi_master.md R142). -/
def spiTarget (s : State) : Option SpiTarget :=
  match s.spiSel with
  | none => none
  | some i => s.spiTargets[i]

/-- A call on the selected SPI target that returns nothing, skipped when none is present (41_spi_master.md R142). -/
def callSpi (op : SpiOp) (s : State) : State :=
  match spiTarget s with
  | none => s
  | some t => s.logCall (.spi t op)

/-! ### I2C targets -/

/-- The calls made to an I2C target so far, oldest first: an abstract device's stand-in for its state (log 7). -/
def i2cHistory (t : I2cTarget) (calls : List TargetCall) : List I2cOp :=
  calls.filterMap fun c =>
    match c with
    | .i2c t' op => if t' = t then some op else none
    | .spi _ _ => none

/-- The target registered at an address (43_i2c_targets.md R202). -/
def registryFind (a : Addr7) : List (Addr7 × I2cTarget) → Option I2cTarget
  | [] => none
  | e :: rest => if e.1 = a then some e.2 else registryFind a rest

/-- The registry with `t` registered at `a`, replacing any other (43_i2c_targets.md R204), addresses kept
rising. -/
def registryPut (a : Addr7) (t : I2cTarget) : List (Addr7 × I2cTarget) → List (Addr7 × I2cTarget)
  | [] => [(a, t)]
  | e :: rest =>
    if a.toNat < e.1.toNat then (a, t) :: e :: rest
    else if e.1 = a then (a, t) :: rest
    else e :: registryPut a t rest

/-- The registry with nothing at `a` (43_i2c_targets.md R204). -/
def registryRemove (a : Addr7) : List (Addr7 × I2cTarget) → List (Addr7 × I2cTarget)
  | [] => []
  | e :: rest => if e.1 = a then registryRemove a rest else e :: registryRemove a rest

/-- The target at the addressed address, looked up at each call (42_i2c_framer.md R179, 43_i2c_targets.md R203). -/
def addressedTarget (s : State) : Option I2cTarget :=
  match s.i2cTarget with
  | none => none
  | some a => registryFind a s.i2cTargets

/-- `T.start(is_read)`: the ack bit and the state after (43_i2c_targets.md R207; free for a device, log 7). -/
def targetStart (t : I2cTarget) (isRead : Bit) (s : State) : Bit × State :=
  match t with
  | .rtc => (0, { s.logCall (.i2c t (.start isRead)) with rtc := rtcStart isRead s.rtc })
  | .device d => (Config.i2cStartAck d (i2cHistory t s.calls) isRead, s.logCall (.i2c t (.start isRead)))

/-- `T.stop()` (43_i2c_targets.md R208). -/
def targetStop (t : I2cTarget) (s : State) : State :=
  match t with
  | .rtc => { s.logCall (.i2c t .stop) with rtc := rtcStop s.rtc }
  | .device _ => s.logCall (.i2c t .stop)

/-- `T.write_byte(v)`: the ack bit and the state after (43_i2c_targets.md R210, R211; free for a device, log 7). -/
def targetWrite (t : I2cTarget) (v : Byte) (s : State) : Bit × State :=
  match t with
  | .rtc => (0, { s.logCall (.i2c t (.writeByte v)) with rtc := rtcWriteByte s.cfg v s.rtc })
  | .device d => (Config.i2cWriteAck d (i2cHistory t s.calls) v, s.logCall (.i2c t (.writeByte v)))

/-- The wall-clock draw of the next time-register read (43_i2c_targets.md R213; free, log 8). -/
def wallClockNow (s : State) : WallClock := Config.wallClock s.wallDraws s.rtc.offsetMs

/-- The draws made after the RTC reads register `r`: one for a time register, none for a stored one
(43_i2c_targets.md R213). -/
def drawsAfter (r : Fin 19) (draws : Nat) : Nat := if r.val ≤ 0x06 then draws + 1 else draws

/-- `T.read_byte(master_will_ack)`: the byte and the state after (43_i2c_targets.md R212, R213; free for a
device, log 7). -/
def targetRead (t : I2cTarget) (willAck : Bool) (s : State) : Byte × State :=
  match t with
  | .rtc =>
    (rtcLoad s.rtc.ptr (wallClockNow s) s.rtc,
      { s.logCall (.i2c t (.readByte willAck)) with
        rtc := rtcAfterRead s.rtc
        wallDraws := drawsAfter s.rtc.ptr s.wallDraws })
  | .device d => (Config.i2cReadValue d (i2cHistory t s.calls) willAck, s.logCall (.i2c t (.readByte willAck)))

/-- `T.reset_pointer()` if T has it (43_i2c_targets.md R201, R209; whether a device has it is free, log 7). -/
def targetResetPointer (t : I2cTarget) (s : State) : State :=
  match t with
  | .rtc => { s.logCall (.i2c t .resetPointer) with rtc := rtcResetPointer s.rtc }
  | .device d => if Config.i2cHasResetPointer d then s.logCall (.i2c t .resetPointer) else s

/-- `T.reset()` (43_i2c_targets.md R217). -/
def targetReset (t : I2cTarget) (s : State) : State :=
  match t with
  | .rtc => { s.logCall (.i2c t .reset) with rtc := rtcReset s.cfg s.rtc }
  | .device _ => s.logCall (.i2c t .reset)

/-- `TCALL_START(is_read)`: NACK when the target is absent (42_i2c_framer.md R179). -/
def tcallStart (isRead : Bit) (s : State) : Bit × State :=
  match addressedTarget s with
  | none => (1, s)
  | some t => targetStart t isRead s

/-- `TCALL_STOP()` (42_i2c_framer.md R179). -/
def tcallStop (s : State) : State :=
  match addressedTarget s with
  | none => s
  | some t => targetStop t s

/-- `TCALL_WRITE(v)`: NACK when the target is absent (42_i2c_framer.md R179). -/
def tcallWrite (v : Byte) (s : State) : Bit × State :=
  match addressedTarget s with
  | none => (1, s)
  | some t => targetWrite t v s

/-- `TCALL_READ(will_ack)`: 0xFF when the target is absent (42_i2c_framer.md R179). -/
def tcallRead (willAck : Bool) (s : State) : Byte × State :=
  match addressedTarget s with
  | none => (0xFF, s)
  | some t => targetRead t willAck s

/-- `TCALL_RESET_POINTER()` (42_i2c_framer.md R179). -/
def tcallResetPointer (s : State) : State :=
  match addressedTarget s with
  | none => s
  | some t => targetResetPointer t s

end Sys2Proof.Machine
end

