-- ==== Sys2Proof/Machine/Spi.lean ====
section
/-! DEFINITION. The SPI chip-select decoder and SCK edge detector (41_spi_master.md R141-R149). -/

namespace Sys2Proof.Machine

/-- `SPI_CS_EVAL()`: on a change of selection, deselect the outgoing target, take the new index, select the
incoming one (41_spi_master.md R144). -/
def spiCsEval (s : State) : State :=
  if csDecode (csField s.ora) = s.spiSel then s
  else callSpi .select { callSpi .deselect s with spiSel := csDecode (csField s.ora) }

/-- `SPI_RISE()`: the selected target's `transfer` gives the MISO bit, whatever DDRB[1] holds
(41_spi_master.md R146; the bit is free, log 6). -/
def spiRise (s : State) : State :=
  match spiTarget s with
  | none => s
  | some t =>
    { s.logCall (.spi t (.transfer (mosiOf s.orb))) with
      orb := withMiso s.orb (Config.spiTransferBit t (spiHistory t s.calls) (mosiOf s.orb)) }

/-- `SPI_FALL()` (41_spi_master.md R147). -/
def spiFall (s : State) : State := callSpi .onSckFalling s

/-- `SPI_SCK_EVAL()` (41_spi_master.md R145). -/
def spiSckEval (s : State) : State :=
  if sckOf s.orb = s.spiLastSck then s
  else if sckOf s.orb = 1 then spiRise { s with spiLastSck := sckOf s.orb }
  else spiFall { s with spiLastSck := sckOf s.orb }

/-- What a port-B read returns: MISO is forced HIGH when no target is present (40_register_file.md R117). -/
def portBRead (s : State) : Byte :=
  match spiTarget s with
  | none => s.orb ||| 0x02#8
  | some _ => s.orb

end Sys2Proof.Machine
end

