-- ==== Sys2Proof/Machine/Framer.lean ====
section
/-! DEFINITION. The I2C bus framer: START, STOP, SCL edges, byte completion, and the line evaluation every DDRA
and port-A write runs (42_i2c_framer.md R161-R178). -/

namespace Sys2Proof.Machine

/-- The last levels become the new ones (42_i2c_framer.md R161). -/
def State.withLevels (s : State) (scl sda : Bit) : State := { s with i2cLastScl := scl, i2cLastSda := sda }

/-- `I2C_START()`, first or repeated; no target is called (42_i2c_framer.md R166). -/
def i2cStart (s : State) : State := { s with i2cBitcnt := 0, i2cShift := 0x00, i2cState := .address }

/-- `I2C_STOP()`: ignored at counter 8 (42_i2c_framer.md R168), else the addressed target's `stop`, then NONE and
IDLE (R167). -/
def i2cStop (s : State) : State :=
  if s.i2cBitcnt = 8 then s else { tcallStop s with i2cTarget := none, i2cState := .idle }

/-- `PREFETCH()`: the next read byte into the staged slot, `master_will_ack` true (42_i2c_framer.md R178). -/
def prefetch (s : State) : State := { (tcallRead true s).2 with i2cRdbyte := (tcallRead true s).1 }

/-- The state once a found target has been started: its ack latched, and on ACK the data state with the first
byte fetched (read) or the pointer reset (write) (42_i2c_framer.md R174). -/
def addressAcked (rw ack : Bit) (s : State) : State :=
  if ack = 0 then
    if rw = 1 then prefetch { s with i2cSlaveAck := ack, i2cState := .dataRead }
    else tcallResetPointer { s with i2cSlaveAck := ack, i2cState := .dataWrite }
  else { s with i2cSlaveAck := ack }

/-- `ADDR_COMPLETE(b)` (42_i2c_framer.md R174): the address is looked up; a missing target is a NACK and NONE. -/
def addrComplete (b : Byte) (s : State) : State :=
  match registryFind (addressOf b) s.i2cTargets with
  | none => { s with i2cRw := rwOf b, i2cTarget := none, i2cSlaveAck := 1 }
  | some _ =>
    let started := tcallStart (rwOf b) { s with i2cRw := rwOf b, i2cTarget := some (addressOf b) }
    addressAcked (rwOf b) started.1 started.2

/-- `WRITE_COMPLETE(b)`: the byte goes to the target and its ack is latched (42_i2c_framer.md R175). -/
def writeComplete (b : Byte) (s : State) : State :=
  { (tcallWrite b s).2 with i2cSlaveAck := (tcallWrite b s).1 }

/-- `BYTE_COMPLETE(b)` (42_i2c_framer.md R173, R176, R177). -/
def byteComplete (b : Byte) (s : State) : State :=
  match s.i2cState with
  | .address => addrComplete b s
  | .dataWrite => writeComplete b s
  | .dataRead => s
  | .idle => s

/-- The rise of a data or address bit: shifted in except in DATA_READ, and counted (42_i2c_framer.md R169). -/
def countBit (sda : Bit) (s : State) : State :=
  { s with
    i2cShift := if s.i2cState = .dataRead then s.i2cShift else shiftIn s.i2cShift sda
    i2cBitcnt := s.i2cBitcnt + 1 }

/-- `I2C_RISE(sda)`: a bit at counter 0..7, which completes the byte when it makes 8 (42_i2c_framer.md R169); the
ACK clock at 8, where a master ACK in DATA_READ fetches the next byte (R170); nothing at 9 (R171). -/
def i2cRise (sda : Bit) (s : State) : State :=
  if s.i2cBitcnt.val < 7 then countBit sda s
  else if s.i2cBitcnt = 7 then byteComplete (countBit sda s).i2cShift (countBit sda s)
  else if s.i2cBitcnt = 8 then
    if s.i2cState = .dataRead ∧ sda = 0 then { prefetch s with i2cBitcnt := 9 } else { s with i2cBitcnt := 9 }
  else s

/-- `I2C_FALL()` (42_i2c_framer.md R172). -/
def i2cFall (s : State) : State := if s.i2cBitcnt = 9 then { s with i2cBitcnt := 0 } else s

/-- The line-transition code of the register write just made (30_encoding.md R85). -/
def currentCode (s : State) : LineCode :=
  lineCode s.i2cLastScl s.i2cLastSda (sclLevel s.ddra) (sdaLevel s.ddra)

/-- `I2C_EVAL()`: at most one event, and the last levels updated whenever a level changed
(42_i2c_framer.md R161). -/
def i2cEval (s : State) : State :=
  match eventClass (currentCode s) with
  | .noChange => s
  | .start => i2cStart (s.withLevels (sclLevel s.ddra) (sdaLevel s.ddra))
  | .stop => i2cStop (s.withLevels (sclLevel s.ddra) (sdaLevel s.ddra))
  | .rise => i2cRise (sdaLevel s.ddra) (s.withLevels (sclLevel s.ddra) (sdaLevel s.ddra))
  | .fall => i2cFall (s.withLevels (sclLevel s.ddra) (sdaLevel s.ddra))
  | .setup => s.withLevels (sclLevel s.ddra) (sdaLevel s.ddra)

/-- The lines are driven to two levels through DDRA[7:6], DDRA[5:0] kept: the register write a line event follows
(30_encoding.md R91; log 3). -/
def driveLines (scl sda : Bit) (s : State) : State := { s with ddra := ddraFor scl sda s.ddra }

/-- A port-A write: store all eight bits, evaluate the chip selects, then the lines (40_register_file.md R102;
60_exceptions.md R247). -/
def writePortA (v : Byte) (s : State) : State := i2cEval (spiCsEval { s with ora := v })

end Sys2Proof.Machine
end

