-- ==== Sys2Proof/Machine/LineEvents.lean ====
section
/-! DEFINITION. The ten line-event classes (30_encoding.md R86): what `I2C_EVAL` does on each once the register
write has moved the lines (42_i2c_framer.md R161). A class's last levels are its code's new levels (R85). -/

namespace Sys2Proof.Machine

/-- EV_START: START or repeated START, code 1110 (42_i2c_framer.md R166). -/
def execEvStart (s : State) : Host.Outcome State Fault Refusal :=
  .next (i2cStart (s.withLevels 1 0))

/-- EV_STOP: STOP, code 1011, ignored at counter 8 (42_i2c_framer.md R167, R168). -/
def execEvStop (s : State) : Host.Outcome State Fault Refusal :=
  .next (i2cStop (s.withLevels 1 1))

/-- EV_RISE: SCL rises, sampling the new SDA (42_i2c_framer.md R169, R170, R171). -/
def execEvRise (_sdaO sdaN : Bit) (s : State) : Host.Outcome State Fault Refusal :=
  .next (i2cRise sdaN (s.withLevels 1 sdaN))

/-- EV_FALL: SCL falls (42_i2c_framer.md R172). -/
def execEvFall (_sdaO sdaN : Bit) (s : State) : Host.Outcome State Fault Refusal :=
  .next (i2cFall (s.withLevels 0 sdaN))

/-- EV_SETUP_SDA_RISE: SDA rises while SCL is LOW: only the last levels change (42_i2c_framer.md R165). -/
def execEvSetupSdaRise (s : State) : Host.Outcome State Fault Refusal :=
  .next (s.withLevels 0 1)

/-- EV_SETUP_SDA_FALL: SDA falls while SCL is LOW: only the last levels change (42_i2c_framer.md R165). -/
def execEvSetupSdaFall (s : State) : Host.Outcome State Fault Refusal :=
  .next (s.withLevels 0 0)

/-- EV_NOCHANGE_0: no change, both LOW: nothing happens (42_i2c_framer.md R161). -/
def execEvNochange0 (s : State) : Host.Outcome State Fault Refusal :=
  .next s

/-- EV_NOCHANGE_5: no change, SCL LOW and SDA HIGH: nothing happens (42_i2c_framer.md R161). -/
def execEvNochange5 (s : State) : Host.Outcome State Fault Refusal :=
  .next s

/-- EV_NOCHANGE_A: no change, SCL HIGH and SDA LOW: nothing happens (42_i2c_framer.md R161). -/
def execEvNochangeA (s : State) : Host.Outcome State Fault Refusal :=
  .next s

/-- EV_NOCHANGE_F: no change, both HIGH: nothing happens (42_i2c_framer.md R161). -/
def execEvNochangeF (s : State) : Host.Outcome State Fault Refusal :=
  .next s

end Sys2Proof.Machine
end

