-- ==== Sys2Proof/Machine/Reads.lean ====
section
/-! DEFINITION. The sixteen read cycles (40_register_file.md R117-R132): each returns one byte and changes no state
of the block (20_memory.md R68). -/

namespace Sys2Proof.Machine

/-- RD_ORB: port B, MISO forced HIGH with no target (40_register_file.md R117). -/
def execRdOrb (s : State) : Host.Outcome State Fault Refusal :=
  .next (s.answer (portBRead s))

/-- RD_ORA: port A with the SDA read-back in bit 7 (40_register_file.md R118). -/
def execRdOra (s : State) : Host.Outcome State Fault Refusal :=
  .next (s.answer (portARead s))

/-- RD_DDRB: the stored byte (40_register_file.md R119). -/
def execRdDdrb (s : State) : Host.Outcome State Fault Refusal :=
  .next (s.answer s.ddrb)

/-- RD_DDRA: the stored byte (40_register_file.md R120). -/
def execRdDdra (s : State) : Host.Outcome State Fault Refusal :=
  .next (s.answer s.ddra)

/-- RD_TMR4: the stored byte (40_register_file.md R121). -/
def execRdTmr4 (s : State) : Host.Outcome State Fault Refusal :=
  .next (s.answer s.tmr4)

/-- RD_TMR5: the stored byte (40_register_file.md R122). -/
def execRdTmr5 (s : State) : Host.Outcome State Fault Refusal :=
  .next (s.answer s.tmr5)

/-- RD_TMR6: the stored byte (40_register_file.md R123). -/
def execRdTmr6 (s : State) : Host.Outcome State Fault Refusal :=
  .next (s.answer s.tmr6)

/-- RD_TMR7: the stored byte (40_register_file.md R124). -/
def execRdTmr7 (s : State) : Host.Outcome State Fault Refusal :=
  .next (s.answer s.tmr7)

/-- RD_TMR8: the stored byte (40_register_file.md R125). -/
def execRdTmr8 (s : State) : Host.Outcome State Fault Refusal :=
  .next (s.answer s.tmr8)

/-- RD_TMR9: the stored byte (40_register_file.md R126). -/
def execRdTmr9 (s : State) : Host.Outcome State Fault Refusal :=
  .next (s.answer s.tmr9)

/-- RD_SR: the stored byte (40_register_file.md R127). -/
def execRdSr (s : State) : Host.Outcome State Fault Refusal :=
  .next (s.answer s.sr)

/-- RD_ACR: the stored byte (40_register_file.md R128). -/
def execRdAcr (s : State) : Host.Outcome State Fault Refusal :=
  .next (s.answer s.acr)

/-- RD_PCR: the stored byte (40_register_file.md R129). -/
def execRdPcr (s : State) : Host.Outcome State Fault Refusal :=
  .next (s.answer s.pcr)

/-- RD_IFR: bit 7 is any-pending (40_register_file.md R130). -/
def execRdIfr (s : State) : Host.Outcome State Fault Refusal :=
  .next (s.answer (ifrRead s.ifr))

/-- RD_IER: bit 7 is 1 (40_register_file.md R131). -/
def execRdIer (s : State) : Host.Outcome State Fault Refusal :=
  .next (s.answer (ierRead s.ier))

/-- RD_ORA15: the second name of port A (40_register_file.md R132). -/
def execRdOra15 (s : State) : Host.Outcome State Fault Refusal :=
  .next (s.answer (portARead s))

end Sys2Proof.Machine
end

