-- ==== Sys2Proof/Machine/Writes.lean ====
section
/-! DEFINITION. The sixteen write cycles (40_register_file.md R101-R116). Every one completes (60_exceptions.md
R241). -/

namespace Sys2Proof.Machine

/-- WR_ORB: the bits DDRB makes writable, then the SCK evaluation (40_register_file.md R101). -/
def execWrOrb (v : Byte) (s : State) : Host.Outcome State Fault Refusal :=
  .next (spiSckEval { s with orb := maskedWrite s.orb s.ddrb v })

/-- WR_ORA: all eight bits, then chip selects and lines (40_register_file.md R102). -/
def execWrOra (v : Byte) (s : State) : Host.Outcome State Fault Refusal :=
  .next (writePortA v s)

/-- WR_DDRB: storage; it makes no SCK edge (41_spi_master.md R149) (40_register_file.md R103). -/
def execWrDdrb (v : Byte) (s : State) : Host.Outcome State Fault Refusal :=
  .next { s with ddrb := v }

/-- WR_DDRA: store, then the line evaluation (40_register_file.md R104). -/
def execWrDdra (v : Byte) (s : State) : Host.Outcome State Fault Refusal :=
  .next (i2cEval { s with ddra := v })

/-- WR_TMR4: a storage cell (40_register_file.md R105). -/
def execWrTmr4 (v : Byte) (s : State) : Host.Outcome State Fault Refusal :=
  .next { s with tmr4 := v }

/-- WR_TMR5: a storage cell (40_register_file.md R106). -/
def execWrTmr5 (v : Byte) (s : State) : Host.Outcome State Fault Refusal :=
  .next { s with tmr5 := v }

/-- WR_TMR6: a storage cell (40_register_file.md R107). -/
def execWrTmr6 (v : Byte) (s : State) : Host.Outcome State Fault Refusal :=
  .next { s with tmr6 := v }

/-- WR_TMR7: a storage cell (40_register_file.md R108). -/
def execWrTmr7 (v : Byte) (s : State) : Host.Outcome State Fault Refusal :=
  .next { s with tmr7 := v }

/-- WR_TMR8: a storage cell (40_register_file.md R109). -/
def execWrTmr8 (v : Byte) (s : State) : Host.Outcome State Fault Refusal :=
  .next { s with tmr8 := v }

/-- WR_TMR9: a storage cell (40_register_file.md R110). -/
def execWrTmr9 (v : Byte) (s : State) : Host.Outcome State Fault Refusal :=
  .next { s with tmr9 := v }

/-- WR_SR: a storage cell (40_register_file.md R111). -/
def execWrSr (v : Byte) (s : State) : Host.Outcome State Fault Refusal :=
  .next { s with sr := v }

/-- WR_ACR: a storage cell (40_register_file.md R112). -/
def execWrAcr (v : Byte) (s : State) : Host.Outcome State Fault Refusal :=
  .next { s with acr := v }

/-- WR_PCR: a storage cell (40_register_file.md R113). -/
def execWrPcr (v : Byte) (s : State) : Host.Outcome State Fault Refusal :=
  .next { s with pcr := v }

/-- WR_IFR: each 1 clears its bit (40_register_file.md R114). -/
def execWrIfr (v : Byte) (s : State) : Host.Outcome State Fault Refusal :=
  .next { s with ifr := ifrAfterWrite s.ifr v }

/-- WR_IER: bit 7 sets or clears (40_register_file.md R115). -/
def execWrIer (v : Byte) (s : State) : Host.Outcome State Fault Refusal :=
  .next { s with ier := ierAfterWrite s.ier v }

/-- WR_ORA15: the second name of port A (40_register_file.md R116). -/
def execWrOra15 (v : Byte) (s : State) : Host.Outcome State Fault Refusal :=
  .next (writePortA v s)

end Sys2Proof.Machine
end

