-- ==== Sys2Proof/Machine/Dispatch.lean ====
section
/-! DEFINITION. Each operation's meaning, one arm per constructor. -/

namespace Sys2Proof.Machine

def exec (i : Instr) (s : State) : Host.Outcome State Fault Refusal :=
  match i with
  | .wrOrb v => Sys2Proof.Machine.execWrOrb v s
  | .wrOra v => Sys2Proof.Machine.execWrOra v s
  | .wrDdrb v => Sys2Proof.Machine.execWrDdrb v s
  | .wrDdra v => Sys2Proof.Machine.execWrDdra v s
  | .wrTmr4 v => Sys2Proof.Machine.execWrTmr4 v s
  | .wrTmr5 v => Sys2Proof.Machine.execWrTmr5 v s
  | .wrTmr6 v => Sys2Proof.Machine.execWrTmr6 v s
  | .wrTmr7 v => Sys2Proof.Machine.execWrTmr7 v s
  | .wrTmr8 v => Sys2Proof.Machine.execWrTmr8 v s
  | .wrTmr9 v => Sys2Proof.Machine.execWrTmr9 v s
  | .wrSr v => Sys2Proof.Machine.execWrSr v s
  | .wrAcr v => Sys2Proof.Machine.execWrAcr v s
  | .wrPcr v => Sys2Proof.Machine.execWrPcr v s
  | .wrIfr v => Sys2Proof.Machine.execWrIfr v s
  | .wrIer v => Sys2Proof.Machine.execWrIer v s
  | .wrOra15 v => Sys2Proof.Machine.execWrOra15 v s
  | .rdOrb => Sys2Proof.Machine.execRdOrb s
  | .rdOra => Sys2Proof.Machine.execRdOra s
  | .rdDdrb => Sys2Proof.Machine.execRdDdrb s
  | .rdDdra => Sys2Proof.Machine.execRdDdra s
  | .rdTmr4 => Sys2Proof.Machine.execRdTmr4 s
  | .rdTmr5 => Sys2Proof.Machine.execRdTmr5 s
  | .rdTmr6 => Sys2Proof.Machine.execRdTmr6 s
  | .rdTmr7 => Sys2Proof.Machine.execRdTmr7 s
  | .rdTmr8 => Sys2Proof.Machine.execRdTmr8 s
  | .rdTmr9 => Sys2Proof.Machine.execRdTmr9 s
  | .rdSr => Sys2Proof.Machine.execRdSr s
  | .rdAcr => Sys2Proof.Machine.execRdAcr s
  | .rdPcr => Sys2Proof.Machine.execRdPcr s
  | .rdIfr => Sys2Proof.Machine.execRdIfr s
  | .rdIer => Sys2Proof.Machine.execRdIer s
  | .rdOra15 => Sys2Proof.Machine.execRdOra15 s
  | .evStart => Sys2Proof.Machine.execEvStart s
  | .evStop => Sys2Proof.Machine.execEvStop s
  | .evRise sdaO sdaN => Sys2Proof.Machine.execEvRise sdaO sdaN s
  | .evFall sdaO sdaN => Sys2Proof.Machine.execEvFall sdaO sdaN s
  | .evSetupSdaRise => Sys2Proof.Machine.execEvSetupSdaRise s
  | .evSetupSdaFall => Sys2Proof.Machine.execEvSetupSdaFall s
  | .evNochange0 => Sys2Proof.Machine.execEvNochange0 s
  | .evNochange5 => Sys2Proof.Machine.execEvNochange5 s
  | .evNochangeA => Sys2Proof.Machine.execEvNochangeA s
  | .evNochangeF => Sys2Proof.Machine.execEvNochangeF s

end Sys2Proof.Machine
end

