-- ==== Sys2Proof/Machine/HostActions.lean ====
section
/-! DEFINITION. What the host does between bus cycles: RESET (70_reset_and_hazards.md R261, R262), registering and
unregistering targets (43_i2c_targets.md R204, 41_spi_master.md R150), and construction (R263; 60_exceptions.md
R244). -/

namespace Sys2Proof.Machine

/-- `deselect` then `reset` on one SPI target (70_reset_and_hazards.md R261; 43_i2c_targets.md R204). -/
def deselectAndReset (slot : Option SpiTarget) (s : State) : State :=
  match slot with
  | none => s
  | some t => (s.logCall (.spi t .deselect)).logCall (.spi t .reset)

/-- `reset` on every registered I2C target of a list, in its order (70_reset_and_hazards.md R261). -/
def resetEach (entries : List (Addr7 × I2cTarget)) (s : State) : State :=
  match entries with
  | [] => s
  | e :: rest => resetEach rest (targetReset e.2 s)

/-- Part 1 of `RESET()`: the target calls, SPI indices ascending, then I2C addresses ascending
(70_reset_and_hazards.md R261, R262). -/
def resetTargets (s : State) : State :=
  resetEach s.i2cTargets
    (deselectAndReset s.spiTargets[5] (deselectAndReset s.spiTargets[4] (deselectAndReset s.spiTargets[3]
      (deselectAndReset s.spiTargets[2] (deselectAndReset s.spiTargets[1] (deselectAndReset s.spiTargets[0] s))))))

/-- Parts 2 to 4 of `RESET()`: the register file, the SPI scratch and the I2C scratch
(70_reset_and_hazards.md R261). -/
def resetController (s : State) : State :=
  { s with
    orb := 0x00, ora := 0x00, ddrb := 0x00, ddra := 0x00
    tmr4 := 0xFF, tmr5 := 0xFF, tmr6 := 0xFF, tmr7 := 0xFF, tmr8 := 0xFF, tmr9 := 0xFF
    sr := 0x00, acr := 0x00, pcr := 0x00
    ifr := 0, ier := 0
    spiLastSck := 0, spiSel := none
    i2cState := .idle
    i2cLastScl := 1, i2cLastSda := 1
    i2cBitcnt := 0, i2cShift := 0x00
    i2cTarget := none, i2cRw := 0
    i2cRdbyte := 0x00, i2cSlaveAck := 0 }

/-- `RESET()` (70_reset_and_hazards.md R261): the target calls first, then the controller's own fields (R262). -/
def runReset (s : State) : State := resetController (resetTargets s)

/-- `T.address()`: the address a target registers under (43_i2c_targets.md R201, R202). -/
def registrationAddress (t : I2cTarget) (s : State) : Addr7 :=
  match t with
  | .rtc => s.rtc.addr
  | .device d => d.addr

/-- `REGISTER_I2C(T)`: nothing when T is already there, else T replaces what is there (43_i2c_targets.md R204). -/
def registerI2c (t : I2cTarget) (s : State) : State :=
  if registryFind (registrationAddress t s) s.i2cTargets = some t then s
  else { s with i2cTargets := registryPut (registrationAddress t s) t s.i2cTargets }

/-- `UNREGISTER_I2C(a)`: the departing target is reset, then removed (43_i2c_targets.md R204). -/
def unregisterI2c (a : Addr7) (s : State) : State :=
  match registryFind a s.i2cTargets with
  | none => s
  | some t => { targetReset t s with i2cTargets := registryRemove a s.i2cTargets }

/-- `REGISTER_SPI(i, T)` (43_i2c_targets.md R204). -/
def registerSpi (i : CsIndex) (t : SpiTarget) (s : State) : State :=
  if s.spiTargets[i] = some t then s else { s with spiTargets := s.spiTargets.set i (some t) }

/-- `UNREGISTER_SPI(i)`: the departing target is deselected and reset, then removed (43_i2c_targets.md R204). -/
def unregisterSpi (i : CsIndex) (s : State) : State :=
  { deselectAndReset s.spiTargets[i] s with spiTargets := s.spiTargets.set i none }

/-- One host action (70_reset_and_hazards.md R280). -/
def hostAction (a : HostAction) (s : State) : State :=
  match a with
  | .reset => runReset s
  | .registerI2c t => registerI2c t s
  | .unregisterI2c a => unregisterI2c a s
  | .registerSpi i t => registerSpi i t s
  | .unregisterSpi i => unregisterSpi i s

/-- Construction (70_reset_and_hazards.md R263): `RESET()` on the configuration, with each target as constructed.
A configuration outside its limits, or whose range overlaps another device, has no initial state
(00_scope.md R7; 60_exceptions.md R244). -/
def construct (c : Config) (i2c : List (Addr7 × I2cTarget)) (spi : Vector (Option SpiTarget) 6)
    (others : List (Nat × Nat)) : Host.Outcome State Fault Refusal :=
  if (c.wellFormed && registryWellFormed i2c) = false then .refused .badConfiguration
  else if c.rangeFree others = false then .refused .overlapsAnotherDevice
  else .next (runReset (State.initial c i2c spi))

end Sys2Proof.Machine
end

