-- ==== Sys2Proof/Machine/Run.lean ====
section
/-! DEFINITION. What one pending input does: fetching and running an encoded record, a memory access, an access at
an offset, a host action; and placing a record where the next step fetches it. -/

namespace Sys2Proof.Machine

/-- Run a decoded operation. A bus cycle is `exec` of it. A line event is `exec` of it too, after the register
write that moves the lines to its code's new levels; its code's old levels must be the framer's last levels, since
no write produces another code (30_encoding.md R85; log 3). -/
def runInstr (i : Instr) (s : State) : Host.Outcome State Fault Refusal :=
  match lineCodeOf i with
  | none => exec i s
  | some c =>
    if lineSclOld c = s.i2cLastScl ∧ lineSdaOld c = s.i2cLastSda then
      exec i (driveLines (lineSclNew c) (lineSdaNew c) s)
    else .refused (.lineLevelsDiffer c)

/-- Fetch: decode a record's bytes and run the operation, or refuse them by name. -/
def runRecord (bytes : List Byte) (s : State) : Host.Outcome State Fault Refusal :=
  match decode bytes with
  | .ok i => runInstr i s
  | .error e => .refused (.badRecord e)

/-- `READ(off)`: offsets 0..15 are the read cycles; 16 or more returns 0xFF (40_register_file.md R133). -/
def busRead (off : Nat) (s : State) : Host.Outcome State Fault Refusal :=
  if off < 16 then exec (readAt (BitVec.ofNat 4 off)) s else .next (s.answer 0xFF)

/-- `WRITE(off, v)`: offsets 0..15 are the write cycles; 16 or more is dropped (40_register_file.md R133). -/
def busWrite (off : Nat) (v : Byte) (s : State) : Host.Outcome State Fault Refusal :=
  if off < 16 then exec (writeAt (BitVec.ofNat 4 off) v) s else .next s

/-- `MemRead(addr, 1)` (20_memory.md R62). -/
def memRead (addr : BusAddr) (s : State) : Host.Outcome State Fault Refusal :=
  if inRange s.cfg addr then busRead (offsetOf s.cfg addr).toNat s else .refused (.addressOfNoRegister addr)

/-- `MemWrite(addr, 1, v)` (20_memory.md R62). -/
def memWrite (addr : BusAddr) (v : Byte) (s : State) : Host.Outcome State Fault Refusal :=
  if inRange s.cfg addr then busWrite (offsetOf s.cfg addr).toNat v s else .refused (.addressOfNoRegister addr)

/-- What one pending input does (log 1). -/
def runInput (inp : Input) (s : State) : Host.Outcome State Fault Refusal :=
  match inp with
  | .record bytes => runRecord bytes s
  | .memRead addr => memRead addr s
  | .memWrite addr v => memWrite addr v s
  | .offRead off => busRead off s
  | .offWrite off v => busWrite off v s
  | .host a => .next (hostAction a s)

/-- One step: the oldest pending input leaves the trace and runs, whole, before the next (00_scope.md R11). With
none pending nothing happens: the block is driven by bus cycles alone (00_scope.md R2; 70_reset_and_hazards.md
R278). -/
def stepTrace (s : State) : Host.Outcome State Fault Refusal :=
  match s.trace with
  | [] => .next s
  | inp :: rest => runInput inp { s with trace := rest }

/-- The state with its last levels as a record's line-transition code has them before the write; unchanged for a
bus cycle and for a record that encodes nothing (log 3). -/
def presetLevels (bytes : List Byte) (s : State) : State :=
  match readRecord bytes with
  | .ok (.line c) => s.withLevels (lineSclOld c) (lineSdaOld c)
  | .ok (.cycle _) => s
  | .error _ => s

/-- A record becomes the oldest pending input. -/
def placeRecord (bytes : List Byte) (s : State) : State :=
  { presetLevels bytes s with trace := .record bytes :: s.trace }

end Sys2Proof.Machine
end

