-- ==== Sys2Proof/Machine/Step.lean ====
section
/-! DEFINITION. One step of the machine, and where a step fetches its next instruction. -/

namespace Sys2Proof.Machine

/-- One step: the oldest pending input runs. -/
def step (s : State) : Host.Outcome State Fault Refusal := stepTrace s

/-- `s` with a table word placed as the oldest pending input, so that the next step runs it; a line-transition code
also sets the last levels it says the lines had before (log 1, log 3). -/
def State.withFetchWord (s : State) (nbits w : Nat) : State := placeRecord (tableRecord nbits w) s

end Sys2Proof.Machine
end

