-- ==== Sys2Proof/Machine/Driver.lean ====
section
/-! DEFINITION. Bus traces (30_encoding.md R94) and the driver pseudo-operations that expand to them (R95). -/

namespace Sys2Proof.Machine

/-- A register's name of 30_encoding.md R83 and 00_scope.md R14. -/
inductive RegName where
  | orb | ora | ddrb | ddra | tmr4 | tmr5 | tmr6 | tmr7 | tmr8 | tmr9 | sr | acr | pcr | ifr | ier
  /-- A register given by its offset. -/
  | offset (off : BitVec 4)
deriving DecidableEq, Repr

/-- The offset a name stands for (30_encoding.md R83). -/
def RegName.off (r : RegName) : BitVec 4 :=
  match r with
  | .orb => 0
  | .ora => 1
  | .ddrb => 2
  | .ddra => 3
  | .tmr4 => 4
  | .tmr5 => 5
  | .tmr6 => 6
  | .tmr7 => 7
  | .tmr8 => 8
  | .tmr9 => 9
  | .sr => 10
  | .acr => 11
  | .pcr => 12
  | .ifr => 13
  | .ier => 14
  | .offset o => o

/-- One line of a bus trace: `W <reg>, <value>`, or `R <reg>` with or without `-> <value>` (30_encoding.md R94). -/
inductive TraceLine where
  | w (reg : RegName) (value : Byte)
  | r (reg : RegName) (expected : Option Byte)
deriving DecidableEq, Repr

/-- A trace line's bus-cycle word (30_encoding.md R81, R94). -/
def TraceLine.word (l : TraceLine) : CycleWord :=
  match l with
  | .w reg v => cycleWord 1 reg.off v
  | .r reg _ => cycleWord 0 reg.off 0

/-- A trace line as a pending input. -/
def TraceLine.input (l : TraceLine) : Input := .record (recordOf (.cycle l.word))

/-- Whether the byte a read line gives is the byte in the state after it; a line that gives none asks nothing. -/
def TraceLine.holds (l : TraceLine) (s : State) : Bool :=
  match l with
  | .r _ (some v) => decide (s.lastRead = some v)
  | .r _ none => true
  | .w _ _ => true

/-- `LINES s, d` with the program's constant `L` in DDRA[5:0] (30_encoding.md R95). -/
def linesOp (l : BitVec 6) (scl sda : Bit) : TraceLine := .w .ddra (ddraFor scl sda (l.setWidth 8))

/-- The pseudo-operations of 30_encoding.md R95. -/
inductive Pseudo where
  | lines (scl sda : Bit)
  | i2cStart
  | i2cRstart
  | i2cStop
  | i2cWbit (b : Bit)
  | i2cWbyte (v : Byte)
  | i2cRbit
  | i2cRack
  | i2cRbyte
  | i2cMack
  | i2cMnack
  | spiSel (i : CsIndex)
  | spiNone
  | spiBit (b : Bit)
deriving DecidableEq, Repr

/-- `I2C_WBIT b` (30_encoding.md R95). -/
def expandWbit (l : BitVec 6) (b : Bit) : List TraceLine := [linesOp l 0 b, linesOp l 1 b, linesOp l 0 b]

/-- `I2C_RBIT` and `I2C_RACK` (30_encoding.md R95). -/
def expandRbit (l : BitVec 6) : List TraceLine := [linesOp l 0 1, linesOp l 1 1, .r .ora none, linesOp l 0 1]

/-- The expansion of a pseudo-operation, with the constant `L` and, for the chip-select ones, the ORA stored when
it is expanded (30_encoding.md R95; log 19). -/
def Pseudo.expand (p : Pseudo) (l : BitVec 6) (ora : Byte) : List TraceLine :=
  match p with
  | .lines scl sda => [linesOp l scl sda]
  | .i2cStart => [linesOp l 1 0, linesOp l 0 0]
  | .i2cRstart => [linesOp l 0 1, linesOp l 1 1, linesOp l 1 0, linesOp l 0 0]
  | .i2cStop => [linesOp l 0 0, linesOp l 1 0, linesOp l 1 1]
  | .i2cWbit b => expandWbit l b
  | .i2cWbyte v => [7, 6, 5, 4, 3, 2, 1, 0].flatMap fun i => expandWbit l (v.extractLsb' i 1)
  | .i2cRbit => expandRbit l
  | .i2cRack => expandRbit l
  | .i2cRbyte => (List.replicate 8 (expandRbit l)).flatten
  | .i2cMack => expandWbit l 0
  | .i2cMnack => expandWbit l 1
  | .spiSel i => [.w .ora ((ora &&& 0xC0#8) ||| (0x3F#8 &&& ~~~ (1#8 <<< i.val)))]
  | .spiNone => [.w .ora ((ora &&& 0xC0#8) ||| 0x3F#8)]
  | .spiBit b =>
    [.w .orb (b.setWidth 8), .w .orb (0x04#8 ||| b.setWidth 8), .r .orb none, .w .orb (b.setWidth 8)]

/-- A pseudo-operation appended to the pending inputs. -/
def appendPseudo (p : Pseudo) (l : BitVec 6) (s : State) : State :=
  { s with trace := s.trace ++ (p.expand l s.ora).map TraceLine.input }

end Sys2Proof.Machine
end

