-- ==== Sys2Proof/Safety.lean ====
section
/-! DEFINITION. What every reachable state satisfies (10_state.md R41), and what it is for one state to keep part of
another: the terms the statements are written in. -/

namespace Sys2Proof.Machine

/-- The target registered at a selection: none for no selection and for an empty index (41_spi_master.md R142). -/
def spiTargetAt (s : State) (sel : Option CsIndex) : Option SpiTarget := sel.bind fun i => s.spiTargets[i]

/-- The call `op` on a target, if there is one. -/
def spiCallOn (t : Option SpiTarget) (op : SpiOp) : List TargetCall := t.toList.map fun t => .spi t op

/-- The call `op` on an I2C target, if there is one. -/
def i2cCallOn (t : Option I2cTarget) (op : I2cOp) : List TargetCall := t.toList.map fun t => .i2c t op

/-- The calls `RESET()` makes: SPI indices ascending, `deselect` then `reset`, then I2C addresses ascending
(70_reset_and_hazards.md R261, R262). -/
def resetCalls (s : State) : List TargetCall :=
  ((List.finRange 6).flatMap fun i =>
    spiCallOn s.spiTargets[i] .deselect ++ spiCallOn s.spiTargets[i] .reset) ++
    s.i2cTargets.map fun e => .i2c e.2 .reset

/-- The byte that eight samples make, the first in bit 7 (30_encoding.md R89). -/
def receivedByte (start : Byte) (bits : List Bit) : Byte := bits.foldl shiftIn start

/-- The class a line-event operation stands for (30_encoding.md R86); none for a bus cycle. -/
def classOf (i : Instr) : Option EventClass :=
  match lineCodeOf i with
  | none => none
  | some c => some (eventClass c)

/-- 10_state.md R41.3: the last levels are the effective levels. -/
abbrev State.levelsTracked (s : State) : Prop :=
  s.i2cLastScl = sclLevel s.ddra ∧ s.i2cLastSda = sdaLevel s.ddra

/-- 10_state.md R41.2: counter 9 is held only while SCL is HIGH, from the ACK clock's rise to the next fall. -/
abbrev State.nineOnlyWhileHigh (s : State) : Prop := s.i2cBitcnt = 9 → s.i2cLastScl = 1

/-- 10_state.md R41.5: a data state has an addressed target. -/
abbrev State.dataStateAddressed (s : State) : Prop :=
  s.i2cState = .dataWrite ∨ s.i2cState = .dataRead → s.i2cTarget ≠ none

/-- 10_state.md R41.7, R45: no interrupt flag is ever set and the interrupt output is 0. -/
abbrev State.interruptsQuiet (s : State) : Prop := s.ifr = 0 ∧ s.viaIrq = 0

/-- 43_i2c_targets.md R205, R218: the RTC's address is 0x68 and its offset 0. -/
abbrev State.rtcConstants (s : State) : Prop := s.rtc.addr = 0x68 ∧ s.rtc.offsetMs = 0

/-- 00_scope.md R7, 43_i2c_targets.md R202: the configuration is legal and the registry canonical. -/
abbrev State.setupLegal (s : State) : Prop :=
  s.cfg.wellFormed = true ∧ registryWellFormed s.i2cTargets = true

/-- The invariant of the block (10_state.md R41). R41.1 and R41.6 hold by the types of `i2cBitcnt` and `spiSel`. -/
abbrev State.Inv (s : State) : Prop :=
  s.levelsTracked ∧ s.nineOnlyWhileHigh ∧ s.dataStateAddressed ∧ s.interruptsQuiet ∧ s.rtcConstants ∧ s.setupLegal

end Sys2Proof.Machine
end

