-- ==== Sys2Proof/Certificates/Slice0/Obligations.lean ====
section
/-! DEFINITION. The statements about the model, for the provers. A docstring names the rule of spec/ a statement
formalises, or the decision of spec/ or the log entry it rests on. -/

open Sys2Proof Sys2Proof.Machine

/-! ### The register file -/

/-- 60_exceptions.md R241: no operation stops, in any state; nor does an access at any offset. -/
def Obligations.EveryOperationCompletes : Prop := ∀ s : State,
  (∀ i : Instr, ∃ t, exec i s = .next t) ∧
  ∀ (off : Nat) (v : Byte), (∃ t, busRead off s = .next t) ∧ ∃ t, busWrite off v s = .next t

/-- 40_register_file.md R103, R105-R111 (R112, R113 too, but for their last words: ControlRegistersAreInert): the
plain write cycles store the byte and change nothing else. -/
def Obligations.StorageWritesStoreTheByte : Prop := ∀ (v : Byte) (s : State),
  exec (.wrDdrb v) s = .next { s with ddrb := v } ∧
  exec (.wrTmr4 v) s = .next { s with tmr4 := v } ∧
  exec (.wrTmr5 v) s = .next { s with tmr5 := v } ∧
  exec (.wrTmr6 v) s = .next { s with tmr6 := v } ∧
  exec (.wrTmr7 v) s = .next { s with tmr7 := v } ∧
  exec (.wrTmr8 v) s = .next { s with tmr8 := v } ∧
  exec (.wrTmr9 v) s = .next { s with tmr9 := v } ∧
  exec (.wrSr v) s = .next { s with sr := v } ∧
  exec (.wrAcr v) s = .next { s with acr := v } ∧
  exec (.wrPcr v) s = .next { s with pcr := v }

/-- 40_register_file.md R119-R129: the plain read cycles return the stored byte and change nothing of the block; a
timer cell never changes but by its own write. -/
def Obligations.StorageReadsReturnTheByte : Prop := ∀ s : State,
  exec .rdDdrb s = .next { s with lastRead := some s.ddrb } ∧
  exec .rdDdra s = .next { s with lastRead := some s.ddra } ∧
  exec .rdTmr4 s = .next { s with lastRead := some s.tmr4 } ∧
  exec .rdTmr5 s = .next { s with lastRead := some s.tmr5 } ∧
  exec .rdTmr6 s = .next { s with lastRead := some s.tmr6 } ∧
  exec .rdTmr7 s = .next { s with lastRead := some s.tmr7 } ∧
  exec .rdTmr8 s = .next { s with lastRead := some s.tmr8 } ∧
  exec .rdTmr9 s = .next { s with lastRead := some s.tmr9 } ∧
  exec .rdSr s = .next { s with lastRead := some s.sr } ∧
  exec .rdAcr s = .next { s with lastRead := some s.acr } ∧
  exec .rdPcr s = .next { s with lastRead := some s.pcr } ∧
  ∀ (i : Instr) (t : State), exec i s = .next t →
    ((∀ v, i ≠ .wrTmr4 v) → t.tmr4 = s.tmr4) ∧ ((∀ v, i ≠ .wrTmr5 v) → t.tmr5 = s.tmr5) ∧
    ((∀ v, i ≠ .wrTmr6 v) → t.tmr6 = s.tmr6) ∧ ((∀ v, i ≠ .wrTmr7 v) → t.tmr7 = s.tmr7) ∧
    ((∀ v, i ≠ .wrTmr8 v) → t.tmr8 = s.tmr8) ∧ ((∀ v, i ≠ .wrTmr9 v) → t.tmr9 = s.tmr9)

/-- 40_register_file.md R112, R113: WR_ACR and WR_PCR store the byte, and no bit of ACR or PCR changes what any other
operation does. -/
def Obligations.ControlRegistersAreInert : Prop := ∀ (v a p : Byte) (s : State),
  exec (.wrAcr v) s = .next { s with acr := v } ∧
  exec (.wrPcr v) s = .next { s with pcr := v } ∧
  ∀ (i : Instr) (t : State), i ≠ .rdAcr → i ≠ .rdPcr → exec i s = .next t →
    ∃ u, exec i { s with acr := a, pcr := p } = .next u ∧ { u with acr := t.acr, pcr := t.pcr } = t

/-- 30_encoding.md R93: each 1 in data bits 6..0 clears its IFR bit, bit 7 is ignored, nothing else changes. -/
def Obligations.IfrWriteClearsNamedBits : Prop := ∀ (v : Byte) (s : State), ∃ n : BitVec 7,
  exec (.wrIfr v) s = .next { s with ifr := n } ∧
  ∀ i < 7, n.getLsbD i = (s.ifr.getLsbD i && !v.getLsbD i)

/-- 40_register_file.md R115 (the polarity of bit 7 is the spec's decision D20). -/
def Obligations.IerWriteSetsOrClearsNamedBits : Prop := ∀ (v : Byte) (s : State), ∃ n : BitVec 7,
  exec (.wrIer v) s = .next { s with ier := n } ∧
  ∀ i < 7, n.getLsbD i =
    if v.getLsbD 7 then s.ier.getLsbD i || v.getLsbD i else s.ier.getLsbD i && !v.getLsbD i

/-- 40_register_file.md R130 (bit 7 computed: the spec's decision D19). -/
def Obligations.IfrReadShowsAnyPending : Prop := ∀ s : State, ∃ b : Byte,
  exec .rdIfr s = .next { s with lastRead := some b } ∧
  (b.getLsbD 7 = true ↔ s.ifr ≠ 0) ∧ ∀ i < 7, b.getLsbD i = s.ifr.getLsbD i

/-- 40_register_file.md R131. -/
def Obligations.IerReadForcesBitSeven : Prop := ∀ s : State, ∃ b : Byte,
  exec .rdIer s = .next { s with lastRead := some b } ∧
  b.getLsbD 7 = true ∧ ∀ i < 7, b.getLsbD i = s.ier.getLsbD i

/-! ### Port B and SPI -/

/-- 40_register_file.md R101, 41_spi_master.md R145, R147: the masked store, then the SCK edge if there is one. On a
rise with a target present the target's free bit goes to MISO, and with none present nothing is called (the spec's
decisions D15 and D16). -/
def Obligations.PortBWriteMasksAndEvaluatesSck : Prop := ∀ (v : Byte) (s : State),
  exec (.wrOrb v) s = .next (
    let m : Byte := (s.orb &&& ~~~ s.ddrb) ||| (v &&& s.ddrb)
    let mosi : Bit := m.extractLsb' 0 1
    if m.extractLsb' 2 1 = s.spiLastSck then { s with orb := m }
    else
      match spiTargetAt s s.spiSel with
      | none => { s with orb := m, spiLastSck := m.extractLsb' 2 1 }
      | some t =>
        if m.extractLsb' 2 1 = 1 then
          { s with
            orb := (m &&& 0xFD#8) ||| ((Config.spiTransferBit t (spiHistory t s.calls) mosi).setWidth 8 <<< 1)
            spiLastSck := 1
            calls := s.calls ++ [.spi t (.transfer mosi)] }
        else { s with orb := m, spiLastSck := 0, calls := s.calls ++ [.spi t .onSckFalling] })

/-- 40_register_file.md R117: MISO reads 1 unless a registered target is selected (a selected index with none: the
spec's decision D15). -/
def Obligations.PortBReadForcesMiso : Prop := ∀ s : State,
  exec .rdOrb s = .next { s with
    lastRead := some (if (spiTargetAt s s.spiSel).isSome then s.orb else s.orb ||| 0x02#8) }

/-- 30_encoding.md R90: exactly one cleared bit selects its index; all set and several cleared select none. -/
def Obligations.ChipSelectFieldIsOneHot : Prop := ∀ (f : BitVec 6) (i : CsIndex),
  csDecode f = some i ↔ ∀ j : Fin 6, f.getLsbD j.val = decide (j ≠ i)

/-- 40_register_file.md R102, R116, 41_spi_master.md R144: on a change of selection the outgoing target is
deselected, then the incoming one selected (an empty index: the spec's decision D15); no I2C field changes. The
levels are tracked in every reachable state (10_state.md R41.3, kept by InvariantKeptByEveryStep). -/
def Obligations.PortAWriteSelectsTarget : Prop := ∀ (v : Byte) (s : State), s.levelsTracked →
  exec (.wrOra v) s = .next { s with
    ora := v
    spiSel := csDecode (v.extractLsb' 0 6)
    calls := s.calls ++ (if csDecode (v.extractLsb' 0 6) = s.spiSel then [] else
      spiCallOn (spiTargetAt s s.spiSel) .deselect ++
      spiCallOn (spiTargetAt s (csDecode (v.extractLsb' 0 6))) .select) } ∧
  exec (.wrOra15 v) s = exec (.wrOra v) s

/-- 41_spi_master.md R149: no bus cycle but the writes of offsets 0, 1 and 15 moves the SPI state or calls an SPI
target. -/
def Obligations.SpiMovesOnlyOnPortWrites : Prop := ∀ (i : Instr) (s t : State),
  lineCodeOf i = none → (∀ v, i ≠ .wrOrb v ∧ i ≠ .wrOra v ∧ i ≠ .wrOra15 v) → exec i s = .next t →
  t.orb = s.orb ∧ t.spiSel = s.spiSel ∧ t.spiLastSck = s.spiLastSck ∧ t.spiTargets = s.spiTargets ∧
  ∀ x : SpiTarget, spiHistory x t.calls = spiHistory x s.calls

/-! ### Port A reads -/

/-- 40_register_file.md R118, R132: bits 6..0 are the stored bits; bit 7 is the SDA read-back while DDRA[7] = 0. -/
def Obligations.PortAReadOverlaysSda : Prop := ∀ s : State, ∃ b : Byte,
  exec .rdOra s = .next { s with lastRead := some b } ∧
  exec .rdOra15 s = .next { s with lastRead := some b } ∧
  (∀ i < 7, b.getLsbD i = s.ora.getLsbD i) ∧
  b.extractLsb' 7 1 = if s.ddra.extractLsb' 7 1 = 0 then sdaOut s else s.ora.extractLsb' 7 1

/-- 42_i2c_framer.md R180 (the order of its cases is the spec's decision D6, "active" is D7). -/
def Obligations.SdaReadBackFollowsStateAndCounter : Prop := ∀ s : State,
  (s.i2cState = .idle → sdaOut s = 1) ∧
  (∀ c : Nat, s.i2cState = .dataRead → s.i2cBitcnt.val = c → 1 ≤ c → c ≤ 8 →
    sdaOut s = if s.i2cRdbyte.getLsbD (8 - c) then 1 else 0) ∧
  (s.i2cState = .dataRead → s.i2cBitcnt = 0 → sdaOut s = 1) ∧
  (s.i2cState = .dataRead → s.i2cBitcnt = 9 → sdaOut s = s.i2cSlaveAck) ∧
  (s.i2cState = .address ∨ s.i2cState = .dataWrite → s.i2cBitcnt.val < 8 → sdaOut s = 1) ∧
  (s.i2cState = .address ∨ s.i2cState = .dataWrite → 8 ≤ s.i2cBitcnt.val → sdaOut s = s.i2cSlaveAck)

/-! ### Line events -/

/-- 42_i2c_framer.md R166: the same from every state and at every count, with no target call. -/
def Obligations.StartOpensAddressByte : Prop := ∀ s : State,
  exec .evStart s = .next { s with
    i2cLastScl := 1, i2cLastSda := 0, i2cBitcnt := 0, i2cShift := 0x00, i2cState := .address }

/-- 42_i2c_framer.md R168: a STOP at counter 8 changes nothing but the last levels; one at counter 9 is taken. -/
def Obligations.StopIgnoredAtCounterEight : Prop := ∀ s : State,
  (s.i2cBitcnt = 8 → exec .evStop s = .next { s with i2cLastScl := 1, i2cLastSda := 1 }) ∧
  (s.i2cBitcnt = 9 → ∃ t, exec .evStop s = .next t ∧ t.i2cState = .idle ∧ t.i2cTarget = none)

/-- 42_i2c_framer.md R167 (the fields STOP keeps are the spec's decision D8) and 43_i2c_targets.md R208 (D24). -/
def Obligations.StopEndsTransaction : Prop := ∀ s : State, s.i2cBitcnt ≠ 8 →
  exec .evStop s = .next { s with
    i2cLastScl := 1
    i2cLastSda := 1
    i2cTarget := none
    i2cState := .idle
    rtc := if addressedTarget s = some .rtc then { s.rtc with inTxn := 0, expectPtr := 0 } else s.rtc
    calls := s.calls ++ i2cCallOn (addressedTarget s) .stop }

/-- 42_i2c_framer.md R169 for the first seven bits, and for the eighth in IDLE (the spec's decisions D13 and D10). -/
def Obligations.RiseShiftsAndCounts : Prop := ∀ (o d : Bit) (s : State),
  s.i2cBitcnt.val < 7 ∨ (s.i2cBitcnt = 7 ∧ s.i2cState = .idle) →
  exec (.evRise o d) s = .next { s with
    i2cLastScl := 1
    i2cLastSda := d
    i2cBitcnt := s.i2cBitcnt + 1
    i2cShift := if s.i2cState = .dataRead then s.i2cShift else (s.i2cShift <<< 1) ||| d.setWidth 8 }

/-- 42_i2c_framer.md R176: the eighth bit of a read byte only counts, and no rise in DATA_READ uses the shift
register. -/
def Obligations.EighthReadBitOnlyCounts : Prop := ∀ (o d : Bit) (s : State), s.i2cState = .dataRead →
  (s.i2cBitcnt = 7 →
    exec (.evRise o d) s = .next { s with i2cLastScl := 1, i2cLastSda := d, i2cBitcnt := 8 }) ∧
  ∀ v : Byte, ∃ t, exec (.evRise o d) s = .next t ∧ t.i2cShift = s.i2cShift ∧
    exec (.evRise o d) { s with i2cShift := v } = .next { t with i2cShift := v }

/-- 42_i2c_framer.md R170: the ACK clock. A master ACK in DATA_READ fetches the next byte with `master_will_ack`
true (the spec's decision D11); anything else only makes the counter 9. (An absent target's 0xFF is the spec's decision
D43; a device's byte is free.) -/
def Obligations.AckClockFetchesOnMasterAck : Prop := ∀ (o d : Bit) (s : State), s.i2cBitcnt = 8 →
  exec (.evRise o d) s = .next (
    let u : State := { s with i2cLastScl := 1, i2cLastSda := d, i2cBitcnt := 9 }
    if s.i2cState = .dataRead ∧ d = 0 then
      match addressedTarget s with
      | none => { u with i2cRdbyte := 0xFF }
      | some .rtc => { u with
          i2cRdbyte := rtcLoad s.rtc.ptr (Config.wallClock s.wallDraws s.rtc.offsetMs) s.rtc
          rtc := { s.rtc with ptr := rtcNext s.rtc.ptr }
          wallDraws := if s.rtc.ptr.val ≤ 6 then s.wallDraws + 1 else s.wallDraws
          calls := s.calls ++ [.i2c .rtc (.readByte true)] }
      | some (.device x) => { u with
          i2cRdbyte := Config.i2cReadValue x (i2cHistory (.device x) s.calls) true
          calls := s.calls ++ [.i2c (.device x) (.readByte true)] }
    else u)

/-- 42_i2c_framer.md R171 (the spec's decision D14): a rise at counter 9 does nothing. -/
def Obligations.RiseAtNineOnlyMovesLevels : Prop := ∀ (o d : Bit) (s : State), s.i2cBitcnt = 9 →
  exec (.evRise o d) s = .next { s with i2cLastScl := 1, i2cLastSda := d }

/-- 42_i2c_framer.md R172: a fall clears counter 9 and changes no other count. -/
def Obligations.FallClearsCounterNine : Prop := ∀ (o d : Bit) (s : State),
  exec (.evFall o d) s = .next { s with
    i2cLastScl := 0, i2cLastSda := d, i2cBitcnt := if s.i2cBitcnt = 9 then 0 else s.i2cBitcnt }

/-- 42_i2c_framer.md R165: SDA moving with SCL LOW changes nothing but the last levels. -/
def Obligations.SetupOnlyMovesLevels : Prop := ∀ s : State,
  exec .evSetupSdaRise s = .next { s with i2cLastScl := 0, i2cLastSda := 1 } ∧
  exec .evSetupSdaFall s = .next { s with i2cLastScl := 0, i2cLastSda := 0 }

/-- 30_encoding.md R86, the row NOCHANGE: no evaluation. -/
def Obligations.NoChangeDoesNothing : Prop := ∀ s : State,
  exec .evNochange0 s = .next s ∧ exec .evNochange5 s = .next s ∧
  exec .evNochangeA s = .next s ∧ exec .evNochangeF s = .next s

/-- 40_register_file.md R104, 42_i2c_framer.md R161: a DDRA write stores the byte and then is exactly the line event
its line-transition code decodes to (the class of a double change is the spec's decision D4). -/
def Obligations.DdraWriteRunsItsLineEvent : Prop := ∀ (v : Byte) (s : State),
  exec (.wrDdra v) s =
    exec (decodeLine (lineCode s.i2cLastScl s.i2cLastSda (sclLevel v) (sdaLevel v))) { s with ddra := v }

/-- 42_i2c_framer.md R163 and 41_spi_master.md R148 (inferences of the spec): in a state whose levels are tracked,
no bus cycle but a DDRA write moves the framer, the RTC or the draws, or calls an I2C target. -/
def Obligations.FramerMovesOnlyOnDdraWrites : Prop := ∀ (i : Instr) (s t : State),
  lineCodeOf i = none → (∀ v, i ≠ .wrDdra v) → s.levelsTracked → exec i s = .next t →
  t.i2cState = s.i2cState ∧ t.i2cLastScl = s.i2cLastScl ∧ t.i2cLastSda = s.i2cLastSda ∧
  t.i2cBitcnt = s.i2cBitcnt ∧ t.i2cShift = s.i2cShift ∧ t.i2cTarget = s.i2cTarget ∧ t.i2cRw = s.i2cRw ∧
  t.i2cRdbyte = s.i2cRdbyte ∧ t.i2cSlaveAck = s.i2cSlaveAck ∧ t.rtc = s.rtc ∧ t.wallDraws = s.wallDraws ∧
  ∀ x : I2cTarget, i2cHistory x t.calls = i2cHistory x s.calls

/-! ### Bytes -/

/-- 30_encoding.md R89 and 20_memory.md R65: after eight shifts the register holds the eight samples, the first in
bit 7, whatever it held before. -/
def Obligations.EightSamplesMakeTheByteMsbFirst : Prop := ∀ start b : Byte,
  receivedByte start ([7, 6, 5, 4, 3, 2, 1, 0].map fun i => b.extractLsb' i 1) = b

/-- 42_i2c_framer.md R174 (the spec's decisions D9, D12): an address no target is registered at. -/
def Obligations.MissingAddressIsNacked : Prop := ∀ (o d : Bit) (s : State),
  s.i2cState = .address → s.i2cBitcnt = 7 →
  registryFind ((s.i2cShift <<< 1 ||| d.setWidth 8).extractLsb' 1 7) s.i2cTargets = none →
  exec (.evRise o d) s = .next { s with
    i2cLastScl := 1
    i2cLastSda := d
    i2cBitcnt := 8
    i2cShift := s.i2cShift <<< 1 ||| d.setWidth 8
    i2cRw := d
    i2cTarget := none
    i2cSlaveAck := 1 }

/-- 42_i2c_framer.md R174 (D9, D12), R178 (D11) with 43_i2c_targets.md R207 (D26), R212 (D42): the RTC addressed for
a read. -/
def Obligations.RtcReadAddressFetchesFirstByte : Prop := ∀ (o : Bit) (s : State),
  s.i2cState = .address → s.i2cBitcnt = 7 →
  registryFind ((s.i2cShift <<< 1 ||| 1#8).extractLsb' 1 7) s.i2cTargets = some .rtc →
  exec (.evRise o 1) s = .next { s with
    i2cLastScl := 1
    i2cLastSda := 1
    i2cBitcnt := 8
    i2cShift := s.i2cShift <<< 1 ||| 1#8
    i2cRw := 1
    i2cTarget := some ((s.i2cShift <<< 1 ||| 1#8).extractLsb' 1 7)
    i2cSlaveAck := 0
    i2cState := .dataRead
    i2cRdbyte := rtcLoad s.rtc.ptr (Config.wallClock s.wallDraws s.rtc.offsetMs) s.rtc
    rtc := { s.rtc with inTxn := 1, readMode := 1, ptr := rtcNext s.rtc.ptr }
    wallDraws := if s.rtc.ptr.val ≤ 6 then s.wallDraws + 1 else s.wallDraws
    calls := s.calls ++ [.i2c .rtc (.start 1), .i2c .rtc (.readByte true)] }

/-- 42_i2c_framer.md R174 (D9, D12) with 43_i2c_targets.md R207 (D26), R209 (D24): the RTC addressed for a write. -/
def Obligations.RtcWriteAddressResetsPointer : Prop := ∀ (o : Bit) (s : State),
  s.i2cState = .address → s.i2cBitcnt = 7 →
  registryFind ((s.i2cShift <<< 1).extractLsb' 1 7) s.i2cTargets = some .rtc →
  exec (.evRise o 0) s = .next { s with
    i2cLastScl := 1
    i2cLastSda := 0
    i2cBitcnt := 8
    i2cShift := s.i2cShift <<< 1
    i2cRw := 0
    i2cTarget := some ((s.i2cShift <<< 1).extractLsb' 1 7)
    i2cSlaveAck := 0
    i2cState := .dataWrite
    rtc := { s.rtc with inTxn := 1, readMode := 0, ptr := 0, expectPtr := 1 }
    calls := s.calls ++ [.i2c .rtc (.start 0), .i2c .rtc .resetPointer] }

/-- 42_i2c_framer.md R174 (the spec's decisions D9, D12; D11 for the first read): a device is addressed. On its NACK it stays addressed and the
state stays ADDRESS; on its ACK the transfer opens. Its ack, its byte and whether it has `reset_pointer` are free
(log 7). -/
def Obligations.AddressedDeviceOpensOrStays : Prop := ∀ (o d : Bit) (s : State) (x : I2cDevice),
  s.i2cState = .address → s.i2cBitcnt = 7 →
  registryFind ((s.i2cShift <<< 1 ||| d.setWidth 8).extractLsb' 1 7) s.i2cTargets = some (.device x) →
  exec (.evRise o d) s = .next (
    let history := i2cHistory (.device x) s.calls
    let u : State := { s with
      i2cLastScl := 1
      i2cLastSda := d
      i2cBitcnt := 8
      i2cShift := s.i2cShift <<< 1 ||| d.setWidth 8
      i2cRw := d
      i2cTarget := some ((s.i2cShift <<< 1 ||| d.setWidth 8).extractLsb' 1 7)
      i2cSlaveAck := Config.i2cStartAck x history d }
    if Config.i2cStartAck x history d = 1 then
      { u with calls := s.calls ++ [.i2c (.device x) (.start d)] }
    else if d = 1 then
      { u with
        i2cState := .dataRead
        i2cRdbyte := Config.i2cReadValue x (history ++ [.start d]) true
        calls := s.calls ++ [.i2c (.device x) (.start d), .i2c (.device x) (.readByte true)] }
    else
      { u with
        i2cState := .dataWrite
        calls := s.calls ++ .i2c (.device x) (.start d) ::
          (if Config.i2cHasResetPointer x then [.i2c (.device x) .resetPointer] else []) })

/-- 42_i2c_framer.md R175: a written byte goes to the addressed target, its ack is latched, and the state stays
DATA_WRITE. (An absent target's NACK is the spec's decision D43; a device's ack is free.) -/
def Obligations.WrittenByteGoesToTarget : Prop := ∀ (o d : Bit) (s : State),
  s.i2cState = .dataWrite → s.i2cBitcnt = 7 →
  exec (.evRise o d) s = .next (
    let b : Byte := s.i2cShift <<< 1 ||| d.setWidth 8
    let u : State := { s with i2cLastScl := 1, i2cLastSda := d, i2cBitcnt := 8, i2cShift := b }
    match addressedTarget s with
    | none => { u with i2cSlaveAck := 1 }
    | some .rtc => { u with
        i2cSlaveAck := 0
        rtc := rtcWriteByte s.cfg b s.rtc
        calls := s.calls ++ [.i2c .rtc (.writeByte b)] }
    | some (.device x) => { u with
        i2cSlaveAck := Config.i2cWriteAck x (i2cHistory (.device x) s.calls) b
        calls := s.calls ++ [.i2c (.device x) (.writeByte b)] })

/-! ### The RTC -/

/-- 43_i2c_targets.md R210 (the reduction is the spec's decision D25). -/
def Obligations.RtcPointerByteIsReducedModulo19 : Prop := ∀ (c : Config) (v : Byte) (r : Rtc), r.expectPtr = 1 →
  ∃ p : Fin 19, rtcWriteByte c v r = { r with ptr := p, expectPtr := 0 } ∧ p.val = v.toNat % 19

/-- 43_i2c_targets.md R211 (the status register is the spec's decision D27, the time registers D28): one register is
stored, the others stay, the pointer moves on modulo 19. -/
def Obligations.RtcDataByteStoredAtPointer : Prop := ∀ (c : Config) (v : Byte) (r : Rtc), r.expectPtr = 0 →
  ∃ (reg : Vector Byte 19) (p : Fin 19),
    rtcWriteByte c v r = { r with reg := reg, ptr := p } ∧ p.val = (r.ptr.val + 1) % 19 ∧
    (∀ j : Fin 19, j ≠ r.ptr → reg[j] = r.reg[j]) ∧
    (r.ptr.val ≠ 0x0F → reg[r.ptr] = v) ∧
    (r.ptr.val = 0x0F →
      (∀ i : Nat, 2 ≤ i → (reg[r.ptr]).getLsbD i = (r.reg[r.ptr]).getLsbD i) ∧
      ∀ i < 2, (reg[r.ptr]).getLsbD i =
        match c.statusWrite with
        | .replaceLow2 => v.getLsbD i
        | .xorLow2 => (r.reg[r.ptr]).getLsbD i ^^ v.getLsbD i)

/-- 43_i2c_targets.md R212 (D42), R213 (D31), R214 (D29): what a read of each register returns, at a free clock time
for the first seven. -/
def Obligations.RtcReadReturnsRegisterAtPointer : Prop := ∀ (w : Bool) (s : State),
  let t := Config.wallClock s.wallDraws s.rtc.offsetMs
  (targetRead .rtc w s).2 = { s with
    rtc := { s.rtc with ptr := rtcNext s.rtc.ptr }
    wallDraws := if s.rtc.ptr.val ≤ 6 then s.wallDraws + 1 else s.wallDraws
    calls := s.calls ++ [.i2c .rtc (.readByte w)] } ∧
  (rtcNext s.rtc.ptr).val = (s.rtc.ptr.val + 1) % 19 ∧
  (7 ≤ s.rtc.ptr.val → (targetRead .rtc w s).1 = s.rtc.reg[s.rtc.ptr]) ∧
  (s.rtc.ptr = 0 → (targetRead .rtc w s).1 = bcd t.second.val) ∧
  (s.rtc.ptr = 1 → (targetRead .rtc w s).1 = bcd t.minute.val) ∧
  (s.rtc.ptr = 2 → (targetRead .rtc w s).1 = bcd t.hour.val) ∧
  (s.rtc.ptr = 3 → (targetRead .rtc w s).1 = BitVec.ofNat 8 t.dow) ∧
  (s.rtc.ptr = 4 → (targetRead .rtc w s).1 = bcd t.day) ∧
  (s.rtc.ptr = 5 →
    (targetRead .rtc w s).1 = ((Config.rtcCentury t.year).setWidth 8 <<< 7) ||| bcd t.month) ∧
  (s.rtc.ptr = 6 → (targetRead .rtc w s).1 = bcd (t.year % 100))

/-- 43_i2c_targets.md R215 (general knowledge of the spec, G3): tens in bits 7..4, units in bits 3..0. -/
def Obligations.BcdHoldsTensAndUnits : Prop := ∀ n : Nat, n ≤ 99 →
  ((bcd n).extractLsb' 4 4).toNat = n / 10 ∧ ((bcd n).extractLsb' 0 4).toNat = n % 10

/-- 43_i2c_targets.md R216: the day-of-week register is 1..7 and is its own BCD. -/
def Obligations.DayOfWeekIsOneToSeven : Prop := ∀ t : WallClock,
  timeReg 3 t = BitVec.ofNat 8 t.dow ∧ timeReg 3 t = bcd t.dow ∧ 1 ≤ t.dow ∧ t.dow ≤ 7

/-- 43_i2c_targets.md R219 (an inference of the spec): after a pointer byte p, the k-th following read is at
register (p + k) modulo 19, and the stored registers are as before. -/
def Obligations.ReadsWalkFromThePointerByte : Prop := ∀ (c : Config) (p : Byte) (r : Rtc) (k : Nat),
  (rtcAfterRead^[k] (rtcWriteByte c p (rtcResetPointer r))).ptr.val = (p.toNat + k) % 19 ∧
  (rtcAfterRead^[k] (rtcWriteByte c p (rtcResetPointer r))).reg = r.reg

/-- 43_i2c_targets.md R211, R213 (the spec's decision D28): whatever byte is written to a time register, no time
register reads differently at the same clock time. -/
def Obligations.TimeRegistersIgnoreWrites : Prop := ∀ (c : Config) (v : Byte) (rtc : Rtc) (r : Fin 19) (t : WallClock),
  r.val ≤ 6 → rtcLoad r t (rtcWriteByte c v rtc) = rtcLoad r t rtc

/-! ### Whole-machine rules -/

/-- 20_memory.md R68 (an inference of the spec): a read changes nothing of the block, and a second read returns the
same. -/
def Obligations.ReadsChangeNothingAndRepeat : Prop := ∀ (off : BitVec 4) (s : State), ∃ v : Byte,
  exec (readAt off) s = .next { s with lastRead := some v } ∧
  exec (readAt off) { s with lastRead := some v } = .next { s with lastRead := some v }

/-- 20_memory.md R69 (an inference of the spec), with log 16: the second of two equal writes calls no target and
changes at most ORB bit 1, a third changes nothing, and the second changes nothing at all unless it is a port-B write
with MISO writable and a target present. -/
def Obligations.RepeatedWriteChangesNothing : Prop := ∀ (off : BitVec 4) (v : Byte) (s t : State),
  exec (writeAt off v) s = .next t →
  ∃ orb : Byte,
    exec (writeAt off v) t = .next { t with orb := orb } ∧
    exec (writeAt off v) { t with orb := orb } = .next { t with orb := orb } ∧
    (∀ i : Nat, i ≠ 1 → orb.getLsbD i = t.orb.getLsbD i) ∧
    (off ≠ 0 ∨ s.ddrb.getLsbD 1 = false ∨ spiTargetAt s s.spiSel = none → orb = t.orb)

/-- THE MODEL'S READING (log 16): 20_memory.md R69 does not follow from R101 and R146 when DDRB[1] = 1. The first
write's rise puts the target's bit in MISO and the second write overwrites it. -/
def Obligations.PortBRewriteCanChangeMiso : Prop := ∃ (s : State) (v : Byte) (t u : State),
  s.Inv ∧ exec (.wrOrb v) s = .next t ∧ exec (.wrOrb v) t = .next u ∧ u.orb ≠ t.orb

/-- 40_register_file.md R133: an access at an offset of 16 or more. -/
def Obligations.OutOfRangeOffsetsAreHarmless : Prop := ∀ (s : State) (off : Nat) (v : Byte) (rest : List Input),
  16 ≤ off →
  (s.trace = .offRead off :: rest → step s = .next { s with trace := rest, lastRead := some 0xFF }) ∧
  (s.trace = .offWrite off v :: rest → step s = .next { s with trace := rest })

/-- 20_memory.md R62: an address in `[BASE, BASE + 15]` is the read or write cycle of its offset. Outside it the
cycle does not reach the block; that the model then refuses is log 11. -/
def Obligations.AddressesInRangeReachTheirRegister : Prop := ∀ (s : State) (a : BusAddr) (v : Byte),
  (∀ off : BitVec 4, a.toNat = s.cfg.base.toNat + off.toNat →
    memRead a s = exec (readAt off) s ∧ memWrite a v s = exec (writeAt off v) s) ∧
  (a.toNat < s.cfg.base.toNat ∨ s.cfg.base.toNat + 15 < a.toNat →
    memRead a s = .refused (.addressOfNoRegister a) ∧ memWrite a v s = .refused (.addressOfNoRegister a))

/-- THE MODEL'S FETCH (log 1, log 3): a pending record that decodes to a bus cycle runs as `exec` of it; one that
decodes to a line event whose old levels are the last levels runs as `exec` of it once the lines are driven. -/
def Obligations.StepRunsTheDecodedRecord : Prop :=
  ∀ (s : State) (bytes : List Byte) (rest : List Input) (i : Instr),
  s.trace = .record bytes :: rest → decode bytes = .ok i →
  (lineCodeOf i = none → step s = exec i { s with trace := rest }) ∧
  ∀ c : LineCode, lineCodeOf i = some c → lineSclOld c = s.i2cLastScl → lineSdaOld c = s.i2cLastSda →
    step s = exec i { s with
      trace := rest, ddra := ddraFor (lineSclNew c) (lineSdaNew c) s.ddra }

/-- THE MODEL'S FETCH (log 1): with nothing pending a step changes nothing; a pending host action runs. -/
def Obligations.StepIdlesOrRunsHostActions : Prop := ∀ s : State,
  (s.trace = [] → step s = .next s) ∧
  ∀ (a : HostAction) (rest : List Input), s.trace = .host a :: rest →
    step s = .next (hostAction a { s with trace := rest })

/-- 00_scope.md R7, 10_state.md R45, 43_i2c_targets.md R218 (the spec's decision D28): no step changes the
configuration, the interrupt output, or the RTC's address and offset. -/
def Obligations.NoStepChangesTheConstants : Prop := ∀ s t : State, step s = .next t →
  t.cfg = s.cfg ∧ t.viaIrq = s.viaIrq ∧ t.rtc.addr = s.rtc.addr ∧ t.rtc.offsetMs = s.rtc.offsetMs

/-- 10_state.md R41 (part of it an inference of the spec): every step keeps the invariant. -/
def Obligations.InvariantKeptByEveryStep : Prop := ∀ s t : State, s.Inv → step s = .next t → t.Inv

/-- 10_state.md R41: the invariant holds after reset. -/
def Obligations.InvariantHoldsAtReset : Prop := State.reset.Inv

/-! ### Encoding -/

/-- 30_encoding.md R81, R83, R85, R86: no bit of an encoding is dropped. -/
def Obligations.DecodeOfEncode : Prop := ∀ i : Instr, i.wellFormed = true → decode (encode i) = .ok i

/-- 30_encoding.md R81, R86, R96: a write's word and a line-transition code encode back to themselves; a read's word
encodes back with its ignored data field 0. -/
def Obligations.EncodeOfDecode : Prop :=
  (∀ w : CycleWord, cycleW w = 1 → encodeCoded (decodeCycle w) = .cycle w) ∧
  (∀ w : CycleWord, cycleW w = 0 → encodeCoded (decodeCycle w) = .cycle (cycleWord 0 (cycleOff w) 0)) ∧
  ∀ c : LineCode, encodeCoded (decodeLine c) = .line c

/-- Words of 95_test_vectors.md and codes of 30_encoding.md R86, as bytes (log 2). -/
def Obligations.SampleWordsDecode : Prop :=
  decode [0x3E, 0x11] = .ok (.wrOra 0x3E) ∧ decode [0x05, 0x12] = .ok (.wrDdrb 0x05) ∧
  decode [0x80, 0x13] = .ok (.wrDdra 0x80) ∧ decode [0x82, 0x1E] = .ok (.wrIer 0x82) ∧
  decode [0x00, 0x01] = .ok .rdOra ∧ decode [0x00, 0x0E] = .ok .rdIer ∧
  decode [0b1110] = .ok .evStart ∧ decode [0b0111] = .ok (.evRise 1 1)

/-! ### Reset and the host -/

/-- 10_state.md R21: the register file after reset, and offsets 1 and 15 one field. -/
def Obligations.ResetRegisterFileValues : Prop :=
  State.reset.orb = 0x00 ∧ State.reset.ora = 0x00 ∧ State.reset.ddrb = 0x00 ∧ State.reset.ddra = 0x00 ∧
  State.reset.tmr4 = 0xFF ∧ State.reset.tmr5 = 0xFF ∧ State.reset.tmr6 = 0xFF ∧ State.reset.tmr7 = 0xFF ∧
  State.reset.tmr8 = 0xFF ∧ State.reset.tmr9 = 0xFF ∧ State.reset.sr = 0x00 ∧ State.reset.acr = 0x00 ∧
  State.reset.pcr = 0x00 ∧ State.reset.ifr = 0 ∧ State.reset.ier = 0 ∧
  ∀ (v : Byte) (s : State), exec (.wrOra15 v) s = exec (.wrOra v) s ∧ exec .rdOra15 s = exec .rdOra s

/-- 10_state.md R30-R39, R43 (reset values that are the spec's decisions D5, D12, D30, D37 among them). -/
def Obligations.ResetScratchAndRtcValues : Prop :=
  State.reset.spiLastSck = 0 ∧ State.reset.spiSel = none ∧ State.reset.i2cState = .idle ∧
  State.reset.i2cLastScl = 1 ∧ State.reset.i2cLastSda = 1 ∧ State.reset.i2cBitcnt = 0 ∧
  State.reset.i2cShift = 0x00 ∧ State.reset.i2cTarget = none ∧ State.reset.i2cRw = 0 ∧
  State.reset.i2cRdbyte = 0x00 ∧ State.reset.i2cSlaveAck = 0 ∧ State.reset.rtc.ptr = 0 ∧
  State.reset.rtc.inTxn = 0 ∧ State.reset.rtc.readMode = 0 ∧ State.reset.rtc.expectPtr = 0 ∧
  State.reset.rtc.offsetMs = 0 ∧ ∀ j : Fin 19, State.reset.rtc.reg[j] = 0x00

/-- 70_reset_and_hazards.md R261, R262 and 43_i2c_targets.md R217 (the spec's decisions D5, D30, D44): a host reset
from any state. The registries stay; a registered RTC is reset but keeps its constants; the calls are made in order. -/
def Obligations.HostResetRestoresEveryField : Prop := ∀ s : State,
  hostAction .reset s = { State.initial s.cfg s.i2cTargets s.spiTargets with
    rtc := if s.i2cTargets.any (fun e => decide (e.2 = .rtc)) then
        { Rtc.constructed s.cfg with addr := s.rtc.addr, offsetMs := s.rtc.offsetMs }
      else s.rtc
    viaIrq := s.viaIrq
    calls := s.calls ++ resetCalls s
    wallDraws := s.wallDraws
    lastRead := s.lastRead
    trace := s.trace }

/-- 60_exceptions.md R244: a range that overlaps another device has no initial state: it is refused, and by that name
when the configuration is otherwise legal. -/
def Obligations.OverlappingConfigurationIsRefused : Prop :=
  ∀ (c : Config) (i2c : List (Addr7 × I2cTarget)) (spi : Vector (Option SpiTarget) 6) (others : List (Nat × Nat)),
  (∃ r ∈ others, r.1 ≤ c.base.toNat + 15 ∧ c.base.toNat ≤ r.2) →
  (∃ r, construct c i2c spi others = .refused r) ∧
  (c.wellFormed = true → registryWellFormed i2c = true →
    construct c i2c spi others = .refused .overlapsAnotherDevice)

/-- 70_reset_and_hazards.md R263 with the defaults of 00_scope.md R7: construction gives the reset state. -/
def Obligations.DefaultConstructionIsReset : Prop :=
  construct Config.default Config.defaultI2cTargets Config.defaultSpiTargets Config.otherDevices =
    .next State.reset

/-- 43_i2c_targets.md R204 (the spec's decision D41): what a lookup finds after registering or unregistering an I2C
target. -/
def Obligations.HostChangesOneRegistryAddress : Prop := ∀ (t : I2cTarget) (a b : Addr7) (s : State),
  registryFind b (hostAction (.registerI2c t) s).i2cTargets =
    (if b = registrationAddress t s then some t else registryFind b s.i2cTargets) ∧
  registryFind b (hostAction (.unregisterI2c a) s).i2cTargets =
    (if b = a then none else registryFind b s.i2cTargets) ∧
  (hostAction (.unregisterI2c a) s).calls = s.calls ++ i2cCallOn (registryFind a s.i2cTargets) .reset ∧
  (hostAction (.registerI2c t) s).calls = s.calls

/-- 43_i2c_targets.md R204, 41_spi_master.md R150 (the spec's decision D41): registering and unregistering an SPI
target. -/
def Obligations.HostChangesOneSpiIndex : Prop := ∀ (i j : CsIndex) (t : SpiTarget) (s : State),
  (hostAction (.registerSpi i t) s).spiTargets[j] = (if j = i then some t else s.spiTargets[j]) ∧
  (hostAction (.unregisterSpi i) s).spiTargets[j] = (if j = i then none else s.spiTargets[j]) ∧
  (hostAction (.unregisterSpi i) s).calls =
    s.calls ++ (spiCallOn s.spiTargets[i] .deselect ++ spiCallOn s.spiTargets[i] .reset) ∧
  (hostAction (.registerSpi i t) s).calls = s.calls ∧
  (hostAction (.unregisterSpi i) s).spiSel = s.spiSel
end

