-- ==== Sys2Proof/Laws/Encoding.lean ====
section
/-! SUPPORT. The fields of the two coded words read back from the words that hold them. -/

namespace Sys2Proof

theorem bit_cases (b : Bit) : b = 0 ∨ b = 1 := by
  revert b; decide

theorem cycleW_cycleWord (w : Bit) (off : BitVec 4) (v : Byte) : cycleW (cycleWord w off v) = w := by
  ext i hi
  obtain rfl : i = 0 := by omega
  simp [cycleW, cycleWord]

theorem cycleOff_cycleWord (w : Bit) (off : BitVec 4) (v : Byte) : cycleOff (cycleWord w off v) = off := by
  ext i hi
  have h1 : ¬ 8 + i < 8 := by omega
  have h2 : 8 + i < 12 := by omega
  have h3 : 8 + i < 13 := by omega
  simp [cycleOff, cycleWord, h1, h2, h3, BitVec.getLsbD_eq_getElem hi]

theorem cycleData_cycleWord (w : Bit) (off : BitVec 4) (v : Byte) : cycleData (cycleWord w off v) = v := by
  ext i hi
  have h2 : i < 12 := by omega
  have h3 : i < 13 := by omega
  simp [cycleData, cycleWord, hi, h2, h3]

/-- A bus-cycle word decodes by its three fields. -/
theorem decodeCycle_cycleWord (w : Bit) (off : BitVec 4) (v : Byte) :
    decodeCycle (cycleWord w off v) = if w = 1 then decodeWrite off v else decodeRead off := by
  simp [decodeCycle, cycleW_cycleWord, cycleOff_cycleWord, cycleData_cycleWord]

/-- A record of a word or code gives it back. -/
theorem readRecord_recordOf (w : CodedWord) : readRecord (recordOf w) = .ok w := by
  cases w with
  | cycle w =>
    have hz : ((w.extractLsb' 8 5).setWidth 8).extractLsb' 5 3 = 0#3 := by
      ext i hi
      simp
    have hw : (((w.extractLsb' 8 5).setWidth 8).setWidth 13 <<< 8) ||| (w.extractLsb' 0 8).setWidth 13 = w := by
      ext i hi
      rcases Nat.lt_or_ge i 8 with h | h
      · simp [h, BitVec.getLsbD_eq_getElem hi]
      · have h8 : ¬ i < 8 := by omega
        have h3 : i - 8 < 5 := by omega
        have h4 : i - 8 < 8 := by omega
        have h5 : 8 + (i - 8) = i := by omega
        simp [h8, h3, h5, BitVec.getLsbD_eq_getElem hi]
    simp only [recordOf, readRecord]
    rw [if_pos (by simpa using hz), hw]
  | line c =>
    simp only [recordOf, readRecord]
    revert c; decide

end Sys2Proof
end

