-- ==== Sys2Proof/Laws/State.lean ====
section
/-! SUPPORT. One lemma per field per named update of State, so that no later proof unfolds a record update. -/

namespace Sys2Proof.Machine

/-! ### `State.answer` -/

@[simp] theorem State.answer_cfg (s : State) (v : Byte) : (s.answer v).cfg = s.cfg := rfl
@[simp] theorem State.answer_orb (s : State) (v : Byte) : (s.answer v).orb = s.orb := rfl
@[simp] theorem State.answer_ora (s : State) (v : Byte) : (s.answer v).ora = s.ora := rfl
@[simp] theorem State.answer_ddrb (s : State) (v : Byte) : (s.answer v).ddrb = s.ddrb := rfl
@[simp] theorem State.answer_ddra (s : State) (v : Byte) : (s.answer v).ddra = s.ddra := rfl
@[simp] theorem State.answer_tmr4 (s : State) (v : Byte) : (s.answer v).tmr4 = s.tmr4 := rfl
@[simp] theorem State.answer_tmr5 (s : State) (v : Byte) : (s.answer v).tmr5 = s.tmr5 := rfl
@[simp] theorem State.answer_tmr6 (s : State) (v : Byte) : (s.answer v).tmr6 = s.tmr6 := rfl
@[simp] theorem State.answer_tmr7 (s : State) (v : Byte) : (s.answer v).tmr7 = s.tmr7 := rfl
@[simp] theorem State.answer_tmr8 (s : State) (v : Byte) : (s.answer v).tmr8 = s.tmr8 := rfl
@[simp] theorem State.answer_tmr9 (s : State) (v : Byte) : (s.answer v).tmr9 = s.tmr9 := rfl
@[simp] theorem State.answer_sr (s : State) (v : Byte) : (s.answer v).sr = s.sr := rfl
@[simp] theorem State.answer_acr (s : State) (v : Byte) : (s.answer v).acr = s.acr := rfl
@[simp] theorem State.answer_pcr (s : State) (v : Byte) : (s.answer v).pcr = s.pcr := rfl
@[simp] theorem State.answer_ifr (s : State) (v : Byte) : (s.answer v).ifr = s.ifr := rfl
@[simp] theorem State.answer_ier (s : State) (v : Byte) : (s.answer v).ier = s.ier := rfl
@[simp] theorem State.answer_spiLastSck (s : State) (v : Byte) : (s.answer v).spiLastSck = s.spiLastSck := rfl
@[simp] theorem State.answer_spiSel (s : State) (v : Byte) : (s.answer v).spiSel = s.spiSel := rfl
@[simp] theorem State.answer_i2cState (s : State) (v : Byte) : (s.answer v).i2cState = s.i2cState := rfl
@[simp] theorem State.answer_i2cLastScl (s : State) (v : Byte) : (s.answer v).i2cLastScl = s.i2cLastScl := rfl
@[simp] theorem State.answer_i2cLastSda (s : State) (v : Byte) : (s.answer v).i2cLastSda = s.i2cLastSda := rfl
@[simp] theorem State.answer_i2cBitcnt (s : State) (v : Byte) : (s.answer v).i2cBitcnt = s.i2cBitcnt := rfl
@[simp] theorem State.answer_i2cShift (s : State) (v : Byte) : (s.answer v).i2cShift = s.i2cShift := rfl
@[simp] theorem State.answer_i2cTarget (s : State) (v : Byte) : (s.answer v).i2cTarget = s.i2cTarget := rfl
@[simp] theorem State.answer_i2cRw (s : State) (v : Byte) : (s.answer v).i2cRw = s.i2cRw := rfl
@[simp] theorem State.answer_i2cRdbyte (s : State) (v : Byte) : (s.answer v).i2cRdbyte = s.i2cRdbyte := rfl
@[simp] theorem State.answer_i2cSlaveAck (s : State) (v : Byte) : (s.answer v).i2cSlaveAck = s.i2cSlaveAck := rfl
@[simp] theorem State.answer_rtc (s : State) (v : Byte) : (s.answer v).rtc = s.rtc := rfl
@[simp] theorem State.answer_viaIrq (s : State) (v : Byte) : (s.answer v).viaIrq = s.viaIrq := rfl
@[simp] theorem State.answer_i2cTargets (s : State) (v : Byte) : (s.answer v).i2cTargets = s.i2cTargets := rfl
@[simp] theorem State.answer_spiTargets (s : State) (v : Byte) : (s.answer v).spiTargets = s.spiTargets := rfl
@[simp] theorem State.answer_calls (s : State) (v : Byte) : (s.answer v).calls = s.calls := rfl
@[simp] theorem State.answer_wallDraws (s : State) (v : Byte) : (s.answer v).wallDraws = s.wallDraws := rfl
@[simp] theorem State.answer_lastRead (s : State) (v : Byte) : (s.answer v).lastRead = some v := rfl
@[simp] theorem State.answer_trace (s : State) (v : Byte) : (s.answer v).trace = s.trace := rfl

/-! ### `State.logCall` -/

@[simp] theorem State.logCall_cfg (s : State) (c : TargetCall) : (s.logCall c).cfg = s.cfg := rfl
@[simp] theorem State.logCall_orb (s : State) (c : TargetCall) : (s.logCall c).orb = s.orb := rfl
@[simp] theorem State.logCall_ora (s : State) (c : TargetCall) : (s.logCall c).ora = s.ora := rfl
@[simp] theorem State.logCall_ddrb (s : State) (c : TargetCall) : (s.logCall c).ddrb = s.ddrb := rfl
@[simp] theorem State.logCall_ddra (s : State) (c : TargetCall) : (s.logCall c).ddra = s.ddra := rfl
@[simp] theorem State.logCall_tmr4 (s : State) (c : TargetCall) : (s.logCall c).tmr4 = s.tmr4 := rfl
@[simp] theorem State.logCall_tmr5 (s : State) (c : TargetCall) : (s.logCall c).tmr5 = s.tmr5 := rfl
@[simp] theorem State.logCall_tmr6 (s : State) (c : TargetCall) : (s.logCall c).tmr6 = s.tmr6 := rfl
@[simp] theorem State.logCall_tmr7 (s : State) (c : TargetCall) : (s.logCall c).tmr7 = s.tmr7 := rfl
@[simp] theorem State.logCall_tmr8 (s : State) (c : TargetCall) : (s.logCall c).tmr8 = s.tmr8 := rfl
@[simp] theorem State.logCall_tmr9 (s : State) (c : TargetCall) : (s.logCall c).tmr9 = s.tmr9 := rfl
@[simp] theorem State.logCall_sr (s : State) (c : TargetCall) : (s.logCall c).sr = s.sr := rfl
@[simp] theorem State.logCall_acr (s : State) (c : TargetCall) : (s.logCall c).acr = s.acr := rfl
@[simp] theorem State.logCall_pcr (s : State) (c : TargetCall) : (s.logCall c).pcr = s.pcr := rfl
@[simp] theorem State.logCall_ifr (s : State) (c : TargetCall) : (s.logCall c).ifr = s.ifr := rfl
@[simp] theorem State.logCall_ier (s : State) (c : TargetCall) : (s.logCall c).ier = s.ier := rfl
@[simp] theorem State.logCall_spiLastSck (s : State) (c : TargetCall) : (s.logCall c).spiLastSck = s.spiLastSck := rfl
@[simp] theorem State.logCall_spiSel (s : State) (c : TargetCall) : (s.logCall c).spiSel = s.spiSel := rfl
@[simp] theorem State.logCall_i2cState (s : State) (c : TargetCall) : (s.logCall c).i2cState = s.i2cState := rfl
@[simp] theorem State.logCall_i2cLastScl (s : State) (c : TargetCall) : (s.logCall c).i2cLastScl = s.i2cLastScl := rfl
@[simp] theorem State.logCall_i2cLastSda (s : State) (c : TargetCall) : (s.logCall c).i2cLastSda = s.i2cLastSda := rfl
@[simp] theorem State.logCall_i2cBitcnt (s : State) (c : TargetCall) : (s.logCall c).i2cBitcnt = s.i2cBitcnt := rfl
@[simp] theorem State.logCall_i2cShift (s : State) (c : TargetCall) : (s.logCall c).i2cShift = s.i2cShift := rfl
@[simp] theorem State.logCall_i2cTarget (s : State) (c : TargetCall) : (s.logCall c).i2cTarget = s.i2cTarget := rfl
@[simp] theorem State.logCall_i2cRw (s : State) (c : TargetCall) : (s.logCall c).i2cRw = s.i2cRw := rfl
@[simp] theorem State.logCall_i2cRdbyte (s : State) (c : TargetCall) : (s.logCall c).i2cRdbyte = s.i2cRdbyte := rfl
@[simp] theorem State.logCall_i2cSlaveAck (s : State) (c : TargetCall) : (s.logCall c).i2cSlaveAck = s.i2cSlaveAck := rfl
@[simp] theorem State.logCall_rtc (s : State) (c : TargetCall) : (s.logCall c).rtc = s.rtc := rfl
@[simp] theorem State.logCall_viaIrq (s : State) (c : TargetCall) : (s.logCall c).viaIrq = s.viaIrq := rfl
@[simp] theorem State.logCall_i2cTargets (s : State) (c : TargetCall) : (s.logCall c).i2cTargets = s.i2cTargets := rfl
@[simp] theorem State.logCall_spiTargets (s : State) (c : TargetCall) : (s.logCall c).spiTargets = s.spiTargets := rfl
@[simp] theorem State.logCall_calls (s : State) (c : TargetCall) : (s.logCall c).calls = s.calls ++ [c] := rfl
@[simp] theorem State.logCall_wallDraws (s : State) (c : TargetCall) : (s.logCall c).wallDraws = s.wallDraws := rfl
@[simp] theorem State.logCall_lastRead (s : State) (c : TargetCall) : (s.logCall c).lastRead = s.lastRead := rfl
@[simp] theorem State.logCall_trace (s : State) (c : TargetCall) : (s.logCall c).trace = s.trace := rfl

/-! ### `State.withLevels` -/

@[simp] theorem State.withLevels_cfg (s : State) (scl sda : Bit) : (s.withLevels scl sda).cfg = s.cfg := rfl
@[simp] theorem State.withLevels_orb (s : State) (scl sda : Bit) : (s.withLevels scl sda).orb = s.orb := rfl
@[simp] theorem State.withLevels_ora (s : State) (scl sda : Bit) : (s.withLevels scl sda).ora = s.ora := rfl
@[simp] theorem State.withLevels_ddrb (s : State) (scl sda : Bit) : (s.withLevels scl sda).ddrb = s.ddrb := rfl
@[simp] theorem State.withLevels_ddra (s : State) (scl sda : Bit) : (s.withLevels scl sda).ddra = s.ddra := rfl
@[simp] theorem State.withLevels_tmr4 (s : State) (scl sda : Bit) : (s.withLevels scl sda).tmr4 = s.tmr4 := rfl
@[simp] theorem State.withLevels_tmr5 (s : State) (scl sda : Bit) : (s.withLevels scl sda).tmr5 = s.tmr5 := rfl
@[simp] theorem State.withLevels_tmr6 (s : State) (scl sda : Bit) : (s.withLevels scl sda).tmr6 = s.tmr6 := rfl
@[simp] theorem State.withLevels_tmr7 (s : State) (scl sda : Bit) : (s.withLevels scl sda).tmr7 = s.tmr7 := rfl
@[simp] theorem State.withLevels_tmr8 (s : State) (scl sda : Bit) : (s.withLevels scl sda).tmr8 = s.tmr8 := rfl
@[simp] theorem State.withLevels_tmr9 (s : State) (scl sda : Bit) : (s.withLevels scl sda).tmr9 = s.tmr9 := rfl
@[simp] theorem State.withLevels_sr (s : State) (scl sda : Bit) : (s.withLevels scl sda).sr = s.sr := rfl
@[simp] theorem State.withLevels_acr (s : State) (scl sda : Bit) : (s.withLevels scl sda).acr = s.acr := rfl
@[simp] theorem State.withLevels_pcr (s : State) (scl sda : Bit) : (s.withLevels scl sda).pcr = s.pcr := rfl
@[simp] theorem State.withLevels_ifr (s : State) (scl sda : Bit) : (s.withLevels scl sda).ifr = s.ifr := rfl
@[simp] theorem State.withLevels_ier (s : State) (scl sda : Bit) : (s.withLevels scl sda).ier = s.ier := rfl
@[simp] theorem State.withLevels_spiLastSck (s : State) (scl sda : Bit) : (s.withLevels scl sda).spiLastSck = s.spiLastSck := rfl
@[simp] theorem State.withLevels_spiSel (s : State) (scl sda : Bit) : (s.withLevels scl sda).spiSel = s.spiSel := rfl
@[simp] theorem State.withLevels_i2cState (s : State) (scl sda : Bit) : (s.withLevels scl sda).i2cState = s.i2cState := rfl
@[simp] theorem State.withLevels_i2cLastScl (s : State) (scl sda : Bit) : (s.withLevels scl sda).i2cLastScl = scl := rfl
@[simp] theorem State.withLevels_i2cLastSda (s : State) (scl sda : Bit) : (s.withLevels scl sda).i2cLastSda = sda := rfl
@[simp] theorem State.withLevels_i2cBitcnt (s : State) (scl sda : Bit) : (s.withLevels scl sda).i2cBitcnt = s.i2cBitcnt := rfl
@[simp] theorem State.withLevels_i2cShift (s : State) (scl sda : Bit) : (s.withLevels scl sda).i2cShift = s.i2cShift := rfl
@[simp] theorem State.withLevels_i2cTarget (s : State) (scl sda : Bit) : (s.withLevels scl sda).i2cTarget = s.i2cTarget := rfl
@[simp] theorem State.withLevels_i2cRw (s : State) (scl sda : Bit) : (s.withLevels scl sda).i2cRw = s.i2cRw := rfl
@[simp] theorem State.withLevels_i2cRdbyte (s : State) (scl sda : Bit) : (s.withLevels scl sda).i2cRdbyte = s.i2cRdbyte := rfl
@[simp] theorem State.withLevels_i2cSlaveAck (s : State) (scl sda : Bit) : (s.withLevels scl sda).i2cSlaveAck = s.i2cSlaveAck := rfl
@[simp] theorem State.withLevels_rtc (s : State) (scl sda : Bit) : (s.withLevels scl sda).rtc = s.rtc := rfl
@[simp] theorem State.withLevels_viaIrq (s : State) (scl sda : Bit) : (s.withLevels scl sda).viaIrq = s.viaIrq := rfl
@[simp] theorem State.withLevels_i2cTargets (s : State) (scl sda : Bit) : (s.withLevels scl sda).i2cTargets = s.i2cTargets := rfl
@[simp] theorem State.withLevels_spiTargets (s : State) (scl sda : Bit) : (s.withLevels scl sda).spiTargets = s.spiTargets := rfl
@[simp] theorem State.withLevels_calls (s : State) (scl sda : Bit) : (s.withLevels scl sda).calls = s.calls := rfl
@[simp] theorem State.withLevels_wallDraws (s : State) (scl sda : Bit) : (s.withLevels scl sda).wallDraws = s.wallDraws := rfl
@[simp] theorem State.withLevels_lastRead (s : State) (scl sda : Bit) : (s.withLevels scl sda).lastRead = s.lastRead := rfl
@[simp] theorem State.withLevels_trace (s : State) (scl sda : Bit) : (s.withLevels scl sda).trace = s.trace := rfl

/-! ### `driveLines` -/

@[simp] theorem driveLines_cfg (s : State) (scl sda : Bit) : (driveLines scl sda s).cfg = s.cfg := rfl
@[simp] theorem driveLines_orb (s : State) (scl sda : Bit) : (driveLines scl sda s).orb = s.orb := rfl
@[simp] theorem driveLines_ora (s : State) (scl sda : Bit) : (driveLines scl sda s).ora = s.ora := rfl
@[simp] theorem driveLines_ddrb (s : State) (scl sda : Bit) : (driveLines scl sda s).ddrb = s.ddrb := rfl
@[simp] theorem driveLines_ddra (s : State) (scl sda : Bit) : (driveLines scl sda s).ddra = ddraFor scl sda s.ddra := rfl
@[simp] theorem driveLines_tmr4 (s : State) (scl sda : Bit) : (driveLines scl sda s).tmr4 = s.tmr4 := rfl
@[simp] theorem driveLines_tmr5 (s : State) (scl sda : Bit) : (driveLines scl sda s).tmr5 = s.tmr5 := rfl
@[simp] theorem driveLines_tmr6 (s : State) (scl sda : Bit) : (driveLines scl sda s).tmr6 = s.tmr6 := rfl
@[simp] theorem driveLines_tmr7 (s : State) (scl sda : Bit) : (driveLines scl sda s).tmr7 = s.tmr7 := rfl
@[simp] theorem driveLines_tmr8 (s : State) (scl sda : Bit) : (driveLines scl sda s).tmr8 = s.tmr8 := rfl
@[simp] theorem driveLines_tmr9 (s : State) (scl sda : Bit) : (driveLines scl sda s).tmr9 = s.tmr9 := rfl
@[simp] theorem driveLines_sr (s : State) (scl sda : Bit) : (driveLines scl sda s).sr = s.sr := rfl
@[simp] theorem driveLines_acr (s : State) (scl sda : Bit) : (driveLines scl sda s).acr = s.acr := rfl
@[simp] theorem driveLines_pcr (s : State) (scl sda : Bit) : (driveLines scl sda s).pcr = s.pcr := rfl
@[simp] theorem driveLines_ifr (s : State) (scl sda : Bit) : (driveLines scl sda s).ifr = s.ifr := rfl
@[simp] theorem driveLines_ier (s : State) (scl sda : Bit) : (driveLines scl sda s).ier = s.ier := rfl
@[simp] theorem driveLines_spiLastSck (s : State) (scl sda : Bit) : (driveLines scl sda s).spiLastSck = s.spiLastSck := rfl
@[simp] theorem driveLines_spiSel (s : State) (scl sda : Bit) : (driveLines scl sda s).spiSel = s.spiSel := rfl
@[simp] theorem driveLines_i2cState (s : State) (scl sda : Bit) : (driveLines scl sda s).i2cState = s.i2cState := rfl
@[simp] theorem driveLines_i2cLastScl (s : State) (scl sda : Bit) : (driveLines scl sda s).i2cLastScl = s.i2cLastScl := rfl
@[simp] theorem driveLines_i2cLastSda (s : State) (scl sda : Bit) : (driveLines scl sda s).i2cLastSda = s.i2cLastSda := rfl
@[simp] theorem driveLines_i2cBitcnt (s : State) (scl sda : Bit) : (driveLines scl sda s).i2cBitcnt = s.i2cBitcnt := rfl
@[simp] theorem driveLines_i2cShift (s : State) (scl sda : Bit) : (driveLines scl sda s).i2cShift = s.i2cShift := rfl
@[simp] theorem driveLines_i2cTarget (s : State) (scl sda : Bit) : (driveLines scl sda s).i2cTarget = s.i2cTarget := rfl
@[simp] theorem driveLines_i2cRw (s : State) (scl sda : Bit) : (driveLines scl sda s).i2cRw = s.i2cRw := rfl
@[simp] theorem driveLines_i2cRdbyte (s : State) (scl sda : Bit) : (driveLines scl sda s).i2cRdbyte = s.i2cRdbyte := rfl
@[simp] theorem driveLines_i2cSlaveAck (s : State) (scl sda : Bit) : (driveLines scl sda s).i2cSlaveAck = s.i2cSlaveAck := rfl
@[simp] theorem driveLines_rtc (s : State) (scl sda : Bit) : (driveLines scl sda s).rtc = s.rtc := rfl
@[simp] theorem driveLines_viaIrq (s : State) (scl sda : Bit) : (driveLines scl sda s).viaIrq = s.viaIrq := rfl
@[simp] theorem driveLines_i2cTargets (s : State) (scl sda : Bit) : (driveLines scl sda s).i2cTargets = s.i2cTargets := rfl
@[simp] theorem driveLines_spiTargets (s : State) (scl sda : Bit) : (driveLines scl sda s).spiTargets = s.spiTargets := rfl
@[simp] theorem driveLines_calls (s : State) (scl sda : Bit) : (driveLines scl sda s).calls = s.calls := rfl
@[simp] theorem driveLines_wallDraws (s : State) (scl sda : Bit) : (driveLines scl sda s).wallDraws = s.wallDraws := rfl
@[simp] theorem driveLines_lastRead (s : State) (scl sda : Bit) : (driveLines scl sda s).lastRead = s.lastRead := rfl
@[simp] theorem driveLines_trace (s : State) (scl sda : Bit) : (driveLines scl sda s).trace = s.trace := rfl

/-! ### `i2cStart` -/

@[simp] theorem i2cStart_cfg (s : State) : (i2cStart s).cfg = s.cfg := rfl
@[simp] theorem i2cStart_orb (s : State) : (i2cStart s).orb = s.orb := rfl
@[simp] theorem i2cStart_ora (s : State) : (i2cStart s).ora = s.ora := rfl
@[simp] theorem i2cStart_ddrb (s : State) : (i2cStart s).ddrb = s.ddrb := rfl
@[simp] theorem i2cStart_ddra (s : State) : (i2cStart s).ddra = s.ddra := rfl
@[simp] theorem i2cStart_tmr4 (s : State) : (i2cStart s).tmr4 = s.tmr4 := rfl
@[simp] theorem i2cStart_tmr5 (s : State) : (i2cStart s).tmr5 = s.tmr5 := rfl
@[simp] theorem i2cStart_tmr6 (s : State) : (i2cStart s).tmr6 = s.tmr6 := rfl
@[simp] theorem i2cStart_tmr7 (s : State) : (i2cStart s).tmr7 = s.tmr7 := rfl
@[simp] theorem i2cStart_tmr8 (s : State) : (i2cStart s).tmr8 = s.tmr8 := rfl
@[simp] theorem i2cStart_tmr9 (s : State) : (i2cStart s).tmr9 = s.tmr9 := rfl
@[simp] theorem i2cStart_sr (s : State) : (i2cStart s).sr = s.sr := rfl
@[simp] theorem i2cStart_acr (s : State) : (i2cStart s).acr = s.acr := rfl
@[simp] theorem i2cStart_pcr (s : State) : (i2cStart s).pcr = s.pcr := rfl
@[simp] theorem i2cStart_ifr (s : State) : (i2cStart s).ifr = s.ifr := rfl
@[simp] theorem i2cStart_ier (s : State) : (i2cStart s).ier = s.ier := rfl
@[simp] theorem i2cStart_spiLastSck (s : State) : (i2cStart s).spiLastSck = s.spiLastSck := rfl
@[simp] theorem i2cStart_spiSel (s : State) : (i2cStart s).spiSel = s.spiSel := rfl
@[simp] theorem i2cStart_i2cState (s : State) : (i2cStart s).i2cState = .address := rfl
@[simp] theorem i2cStart_i2cLastScl (s : State) : (i2cStart s).i2cLastScl = s.i2cLastScl := rfl
@[simp] theorem i2cStart_i2cLastSda (s : State) : (i2cStart s).i2cLastSda = s.i2cLastSda := rfl
@[simp] theorem i2cStart_i2cBitcnt (s : State) : (i2cStart s).i2cBitcnt = 0 := rfl
@[simp] theorem i2cStart_i2cShift (s : State) : (i2cStart s).i2cShift = 0x00 := rfl
@[simp] theorem i2cStart_i2cTarget (s : State) : (i2cStart s).i2cTarget = s.i2cTarget := rfl
@[simp] theorem i2cStart_i2cRw (s : State) : (i2cStart s).i2cRw = s.i2cRw := rfl
@[simp] theorem i2cStart_i2cRdbyte (s : State) : (i2cStart s).i2cRdbyte = s.i2cRdbyte := rfl
@[simp] theorem i2cStart_i2cSlaveAck (s : State) : (i2cStart s).i2cSlaveAck = s.i2cSlaveAck := rfl
@[simp] theorem i2cStart_rtc (s : State) : (i2cStart s).rtc = s.rtc := rfl
@[simp] theorem i2cStart_viaIrq (s : State) : (i2cStart s).viaIrq = s.viaIrq := rfl
@[simp] theorem i2cStart_i2cTargets (s : State) : (i2cStart s).i2cTargets = s.i2cTargets := rfl
@[simp] theorem i2cStart_spiTargets (s : State) : (i2cStart s).spiTargets = s.spiTargets := rfl
@[simp] theorem i2cStart_calls (s : State) : (i2cStart s).calls = s.calls := rfl
@[simp] theorem i2cStart_wallDraws (s : State) : (i2cStart s).wallDraws = s.wallDraws := rfl
@[simp] theorem i2cStart_lastRead (s : State) : (i2cStart s).lastRead = s.lastRead := rfl
@[simp] theorem i2cStart_trace (s : State) : (i2cStart s).trace = s.trace := rfl

end Sys2Proof.Machine
end

