-- ==== Sys2Proof/Laws/Ops.lean ====
section
/-! SUPPORT. For each shared operation, once, everything it can do: the result is the old state with only the named
fields written, and what those fields hold. Later proofs cite these instead of unfolding the operation. -/

namespace Sys2Proof.Machine

/-- The fields a call on an I2C target may write, and what it keeps of the RTC. -/
def TargetEffect (s t : State) : Prop :=
  ∃ rtc calls draws, t = { s with rtc := rtc, calls := s.calls ++ calls, wallDraws := draws } ∧
    rtc.addr = s.rtc.addr ∧ rtc.offsetMs = s.rtc.offsetMs

theorem TargetEffect.refl (s : State) : TargetEffect s s :=
  ⟨s.rtc, [], s.wallDraws, by simp, rfl, rfl⟩

theorem TargetEffect.trans {s t u : State} (h : TargetEffect s t) (k : TargetEffect t u) : TargetEffect s u := by
  obtain ⟨r, c, d, rfl, ha, ho⟩ := h
  obtain ⟨r', c', d', rfl, ha', ho'⟩ := k
  exact ⟨r', c ++ c', d', by simp, ha'.trans ha, ho'.trans ho⟩

theorem rtcStart_addr (b : Bit) (r : Rtc) : (rtcStart b r).addr = r.addr := rfl
theorem rtcStart_offsetMs (b : Bit) (r : Rtc) : (rtcStart b r).offsetMs = r.offsetMs := rfl

/-- `write_byte` keeps the RTC's constants and its transaction flags. -/
theorem rtcWriteByte_keeps (c : Config) (v : Byte) (r : Rtc) :
    (rtcWriteByte c v r).addr = r.addr ∧ (rtcWriteByte c v r).offsetMs = r.offsetMs ∧
      (rtcWriteByte c v r).inTxn = r.inTxn ∧ (rtcWriteByte c v r).readMode = r.readMode := by
  unfold rtcWriteByte
  split <;> simp

theorem targetStart_effect (t : I2cTarget) (b : Bit) (s : State) : TargetEffect s (targetStart t b s).2 := by
  cases t with
  | rtc => exact ⟨_, [.i2c .rtc (.start b)], s.wallDraws, rfl, rfl, rfl⟩
  | device d => exact ⟨s.rtc, [.i2c (.device d) (.start b)], s.wallDraws, rfl, rfl, rfl⟩

theorem targetStop_effect (t : I2cTarget) (s : State) : TargetEffect s (targetStop t s) := by
  cases t with
  | rtc => exact ⟨_, [.i2c .rtc .stop], s.wallDraws, rfl, rfl, rfl⟩
  | device d => exact ⟨s.rtc, [.i2c (.device d) .stop], s.wallDraws, rfl, rfl, rfl⟩

theorem targetWrite_effect (t : I2cTarget) (v : Byte) (s : State) : TargetEffect s (targetWrite t v s).2 := by
  cases t with
  | rtc =>
    obtain ⟨ha, ho, -⟩ := rtcWriteByte_keeps s.cfg v s.rtc
    exact ⟨_, [.i2c .rtc (.writeByte v)], s.wallDraws, rfl, ha, ho⟩
  | device d => exact ⟨s.rtc, [.i2c (.device d) (.writeByte v)], s.wallDraws, rfl, rfl, rfl⟩

theorem targetRead_effect (t : I2cTarget) (w : Bool) (s : State) : TargetEffect s (targetRead t w s).2 := by
  cases t with
  | rtc => exact ⟨_, [.i2c .rtc (.readByte w)], _, rfl, rfl, rfl⟩
  | device d => exact ⟨s.rtc, [.i2c (.device d) (.readByte w)], s.wallDraws, rfl, rfl, rfl⟩

theorem targetResetPointer_effect (t : I2cTarget) (s : State) : TargetEffect s (targetResetPointer t s) := by
  cases t with
  | rtc => exact ⟨_, [.i2c .rtc .resetPointer], s.wallDraws, rfl, rfl, rfl⟩
  | device d =>
    unfold targetResetPointer
    dsimp only
    split
    · exact ⟨s.rtc, [.i2c (.device d) .resetPointer], s.wallDraws, rfl, rfl, rfl⟩
    · exact .refl s

theorem targetReset_effect (t : I2cTarget) (s : State) : TargetEffect s (targetReset t s) := by
  cases t with
  | rtc => exact ⟨_, [.i2c .rtc .reset], s.wallDraws, rfl, rfl, rfl⟩
  | device d => exact ⟨s.rtc, [.i2c (.device d) .reset], s.wallDraws, rfl, rfl, rfl⟩

theorem tcallStart_effect (b : Bit) (s : State) : TargetEffect s (tcallStart b s).2 := by
  unfold tcallStart
  split
  · exact .refl s
  · exact targetStart_effect _ b s

theorem tcallStop_effect (s : State) : TargetEffect s (tcallStop s) := by
  unfold tcallStop
  split
  · exact .refl s
  · exact targetStop_effect _ s

theorem tcallWrite_effect (v : Byte) (s : State) : TargetEffect s (tcallWrite v s).2 := by
  unfold tcallWrite
  split
  · exact .refl s
  · exact targetWrite_effect _ v s

theorem tcallRead_effect (w : Bool) (s : State) : TargetEffect s (tcallRead w s).2 := by
  unfold tcallRead
  split
  · exact .refl s
  · exact targetRead_effect _ w s

theorem tcallResetPointer_effect (s : State) : TargetEffect s (tcallResetPointer s) := by
  unfold tcallResetPointer
  split
  · exact .refl s
  · exact targetResetPointer_effect _ s

/-! ### The SPI logic -/

theorem callSpi_effect (op : SpiOp) (s : State) : ∃ calls, callSpi op s = { s with calls := s.calls ++ calls } := by
  unfold callSpi
  split
  · exact ⟨[], by simp⟩
  · exact ⟨_, rfl⟩

theorem spiCsEval_effect (s : State) : ∃ calls,
    spiCsEval s = { s with spiSel := csDecode (csField s.ora), calls := s.calls ++ calls } := by
  unfold spiCsEval
  split
  · next h => exact ⟨[], by simp [h]⟩
  · obtain ⟨c, hc⟩ := callSpi_effect .deselect s
    obtain ⟨d, hd⟩ := callSpi_effect .select { callSpi .deselect s with spiSel := csDecode (csField s.ora) }
    exact ⟨c ++ d, by rw [hd, hc]; simp⟩

theorem spiSckEval_effect (s : State) : ∃ orb calls,
    spiSckEval s = { s with orb := orb, spiLastSck := sckOf s.orb, calls := s.calls ++ calls } := by
  unfold spiSckEval
  split
  · next h => exact ⟨s.orb, [], by simp [h]⟩
  · split
    · unfold spiRise
      split
      · exact ⟨s.orb, [], by simp⟩
      · exact ⟨_, _, rfl⟩
    · unfold spiFall
      obtain ⟨c, hc⟩ := callSpi_effect .onSckFalling { s with spiLastSck := sckOf s.orb }
      exact ⟨s.orb, c, by rw [hc]⟩

/-! ### The framer -/

/-- The fields an I2C event may write beside the target's: the framer's own. -/
def FramerEffect (s t : State) : Prop :=
  ∃ st scl sda cnt sh tg rw rb ack u, TargetEffect s u ∧
    t = { u with
      i2cState := st, i2cLastScl := scl, i2cLastSda := sda, i2cBitcnt := cnt, i2cShift := sh
      i2cTarget := tg, i2cRw := rw, i2cRdbyte := rb, i2cSlaveAck := ack }

/-- A data state has an addressed target (10_state.md R41.5). -/
def AddressedOk (s : State) : Prop := s.i2cState = .dataWrite ∨ s.i2cState = .dataRead → s.i2cTarget ≠ none

theorem prefetch_effect (s : State) : ∃ rb u, TargetEffect s u ∧ prefetch s = { u with i2cRdbyte := rb } :=
  ⟨_, _, tcallRead_effect true s, rfl⟩

theorem i2cStop_effect (s : State) : (s.i2cBitcnt = 8 ∧ i2cStop s = s) ∨
    (s.i2cBitcnt ≠ 8 ∧ ∃ u, TargetEffect s u ∧ i2cStop s = { u with i2cTarget := none, i2cState := .idle }) := by
  unfold i2cStop
  split
  · next h => exact .inl ⟨h, rfl⟩
  · next h => exact .inr ⟨h, _, tcallStop_effect s, rfl⟩

/-- Everything an address byte's completion can do. -/
theorem addrComplete_effect (b : Byte) (s : State) :
    (registryFind (addressOf b) s.i2cTargets = none ∧
      addrComplete b s = { s with i2cRw := rwOf b, i2cTarget := none, i2cSlaveAck := 1 }) ∨
    (∃ st ack rb u, TargetEffect s u ∧ addrComplete b s =
      { u with
        i2cState := st, i2cTarget := some (addressOf b), i2cRw := rwOf b, i2cRdbyte := rb, i2cSlaveAck := ack }) := by
  unfold addrComplete
  split
  · next h => exact .inl ⟨h, rfl⟩
  · right
    dsimp only
    obtain ⟨r, c, d, hs, ha, ho⟩ :=
      tcallStart_effect (rwOf b) { s with i2cRw := rwOf b, i2cTarget := some (addressOf b) }
    have hu : TargetEffect s { s with rtc := r, calls := s.calls ++ c, wallDraws := d } := ⟨r, c, d, rfl, ha, ho⟩
    rw [hs]
    unfold addressAcked
    split
    · split
      · obtain ⟨rb, u, ⟨r', c', d', rfl, ha', ho'⟩, h⟩ := prefetch_effect _
        rw [h]
        exact ⟨.dataRead, _, rb, _, hu.trans ⟨r', c', d', rfl, ha', ho'⟩, rfl⟩
      · obtain ⟨r', c', d', h, ha', ho'⟩ := tcallResetPointer_effect _
        rw [h]
        exact ⟨.dataWrite, _, s.i2cRdbyte, _, hu.trans ⟨r', c', d', rfl, ha', ho'⟩, rfl⟩
    · exact ⟨s.i2cState, _, s.i2cRdbyte, _, hu, rfl⟩

/-- The addressed target, from the address held and the registry. -/
theorem addressedTarget_of {s : State} {a : Addr7} {t : I2cTarget} (ha : s.i2cTarget = some a)
    (hf : registryFind a s.i2cTargets = some t) : addressedTarget s = some t := by
  unfold addressedTarget
  rw [ha]
  exact hf

/-- An address byte whose target is registered: its `start`, then what its ack decides. -/
theorem addrComplete_found {b : Byte} {s : State} {t : I2cTarget}
    (h : registryFind (addressOf b) s.i2cTargets = some t) :
    addrComplete b s =
      addressAcked (rwOf b)
        (targetStart t (rwOf b) { s with i2cRw := rwOf b, i2cTarget := some (addressOf b) }).1
        (targetStart t (rwOf b) { s with i2cRw := rwOf b, i2cTarget := some (addressOf b) }).2 := by
  have ht : addressedTarget { s with i2cRw := rwOf b, i2cTarget := some (addressOf b) } = some t :=
    addressedTarget_of rfl h
  unfold addrComplete
  rw [h]
  dsimp only
  unfold tcallStart
  rw [ht]

/-- The rise of a byte's eighth bit counts it and completes the byte. -/
theorem i2cRise_eighth {s : State} (sda : Bit) (h : s.i2cBitcnt = 7) :
    i2cRise sda s = byteComplete (countBit sda s).i2cShift (countBit sda s) := by
  unfold i2cRise
  rw [if_neg (by rw [h]; decide), if_pos h]

theorem writeComplete_effect (b : Byte) (s : State) :
    ∃ ack u, TargetEffect s u ∧ writeComplete b s = { u with i2cSlaveAck := ack } :=
  ⟨_, _, tcallWrite_effect b s, rfl⟩

/-- A byte's completion writes no level and no counter, and keeps data states addressed. -/
theorem byteComplete_effect (b : Byte) (s : State) :
    ∃ st tg rw rb ack u, TargetEffect s u ∧ byteComplete b s =
      { u with i2cState := st, i2cTarget := tg, i2cRw := rw, i2cRdbyte := rb, i2cSlaveAck := ack } ∧
      (AddressedOk s → AddressedOk (byteComplete b s)) := by
  unfold byteComplete
  split
  · next hst =>
    rcases addrComplete_effect b s with ⟨-, h⟩ | ⟨st, ack, rb, u, hu, h⟩
    · exact ⟨s.i2cState, none, _, s.i2cRdbyte, 1, s, .refl s, h, fun _ => by rw [h]; simp [AddressedOk, hst]⟩
    · exact ⟨st, _, _, rb, ack, u, hu, h, fun _ => by rw [h]; simp [AddressedOk]⟩
  · next hst =>
    obtain ⟨ack, u, hu, h⟩ := writeComplete_effect b s
    obtain ⟨r, c, d, rfl, ha, ho⟩ := hu
    refine ⟨s.i2cState, s.i2cTarget, s.i2cRw, s.i2cRdbyte, ack, _, ⟨r, c, d, rfl, ha, ho⟩, h, fun k => ?_⟩
    rw [h]
    exact k
  · exact ⟨s.i2cState, s.i2cTarget, s.i2cRw, s.i2cRdbyte, s.i2cSlaveAck, s, .refl s, rfl, id⟩
  · exact ⟨s.i2cState, s.i2cTarget, s.i2cRw, s.i2cRdbyte, s.i2cSlaveAck, s, .refl s, rfl, id⟩

/-- Everything an SCL rise can do: no level is written, and data states stay addressed. -/
theorem i2cRise_effect (sda : Bit) (s : State) :
    ∃ st cnt sh tg rw rb ack u, TargetEffect s u ∧ i2cRise sda s =
      { u with
        i2cState := st, i2cBitcnt := cnt, i2cShift := sh, i2cTarget := tg, i2cRw := rw, i2cRdbyte := rb
        i2cSlaveAck := ack } ∧
      (AddressedOk s → AddressedOk (i2cRise sda s)) := by
  unfold i2cRise
  split
  · exact ⟨s.i2cState, _, _, s.i2cTarget, s.i2cRw, s.i2cRdbyte, s.i2cSlaveAck, s, .refl s, rfl, id⟩
  · split
    · obtain ⟨st, tg, rw, rb, ack, u, ⟨r, c, d, rfl, ha, ho⟩, h, k⟩ :=
        byteComplete_effect (countBit sda s).i2cShift (countBit sda s)
      refine ⟨st, (countBit sda s).i2cBitcnt, (countBit sda s).i2cShift, tg, rw, rb, ack,
        { s with rtc := r, calls := s.calls ++ c, wallDraws := d }, ⟨r, c, d, rfl, ha, ho⟩, h, fun a => k a⟩
    · split
      · split
        · obtain ⟨rb, u, ⟨r, c, d, rfl, ha, ho⟩, h⟩ := prefetch_effect s
          rw [h]
          exact ⟨s.i2cState, 9, s.i2cShift, s.i2cTarget, s.i2cRw, rb, s.i2cSlaveAck, _,
            ⟨r, c, d, rfl, ha, ho⟩, rfl, fun a => a⟩
        · exact ⟨s.i2cState, 9, s.i2cShift, s.i2cTarget, s.i2cRw, s.i2cRdbyte, s.i2cSlaveAck, s, .refl s, rfl, id⟩
      · exact ⟨s.i2cState, s.i2cBitcnt, s.i2cShift, s.i2cTarget, s.i2cRw, s.i2cRdbyte, s.i2cSlaveAck, s,
          .refl s, rfl, id⟩

theorem i2cFall_effect (s : State) : i2cFall s = { s with i2cBitcnt := if s.i2cBitcnt = 9 then 0 else s.i2cBitcnt } := by
  unfold i2cFall
  split <;> rfl

/-- A line event writes the framer's fields and, through calls, the RTC, the call log and the draw counter. -/
theorem i2cEval_effect (s : State) : FramerEffect s (i2cEval s) := by
  unfold i2cEval
  split
  · exact ⟨_, _, _, _, _, _, _, _, _, s, .refl s, rfl⟩
  · exact ⟨_, _, _, _, _, _, _, _, _, s, .refl s, rfl⟩
  · rcases i2cStop_effect (s.withLevels (sclLevel s.ddra) (sdaLevel s.ddra)) with ⟨-, h⟩ | ⟨-, u, ⟨r, c, d, rfl, ha, ho⟩, h⟩
    · rw [h]; exact ⟨_, _, _, _, _, _, _, _, _, s, .refl s, rfl⟩
    · rw [h]; exact ⟨_, _, _, _, _, _, _, _, _, { s with rtc := r, calls := s.calls ++ c, wallDraws := d }, ⟨r, c, d, rfl, ha, ho⟩, rfl⟩
  · obtain ⟨st, cnt, sh, tg, rw, rb, ack, u, ⟨r, c, d, rfl, ha, ho⟩, h, -⟩ :=
      i2cRise_effect (sdaLevel s.ddra) (s.withLevels (sclLevel s.ddra) (sdaLevel s.ddra))
    rw [h]
    exact ⟨_, _, _, _, _, _, _, _, _, { s with rtc := r, calls := s.calls ++ c, wallDraws := d }, ⟨r, c, d, rfl, ha, ho⟩, rfl⟩
  · rw [i2cFall_effect]
    exact ⟨_, _, _, _, _, _, _, _, _, s, .refl s, rfl⟩
  · exact ⟨_, _, _, _, _, _, _, _, _, s, .refl s, rfl⟩

/-! ### Reset and the registries -/

theorem resetEach_effect (es : List (Addr7 × I2cTarget)) (s : State) : TargetEffect s (resetEach es s) := by
  induction es generalizing s with
  | nil => exact .refl s
  | cons e rest ih => exact (targetReset_effect e.2 s).trans (ih _)

theorem deselectAndReset_effect (slot : Option SpiTarget) (s : State) : TargetEffect s (deselectAndReset slot s) := by
  cases slot with
  | none => exact .refl s
  | some t => exact ⟨s.rtc, [.spi t .deselect, .spi t .reset], s.wallDraws, by simp [deselectAndReset, State.logCall], rfl, rfl⟩

theorem resetTargets_effect (s : State) : TargetEffect s (resetTargets s) := by
  unfold resetTargets
  have h := fun (slot : Option SpiTarget) (u : State) (k : TargetEffect s u) =>
    k.trans (deselectAndReset_effect slot u)
  have := h s.spiTargets[5] _ (h s.spiTargets[4] _ (h s.spiTargets[3] _ (h s.spiTargets[2] _
    (h s.spiTargets[1] _ (h s.spiTargets[0] _ (.refl s))))))
  exact this.trans (resetEach_effect _ _)

/-- Looking up after registering finds the new target at its address and every other as before. -/
theorem registryFind_put (a a' : Addr7) (t : I2cTarget) (l : List (Addr7 × I2cTarget)) :
    registryFind a' (registryPut a t l) = if a' = a then some t else registryFind a' l := by
  rcases eq_or_ne a' a with rfl | h
  · rw [if_pos rfl]
    induction l with
    | nil => simp [registryPut, registryFind]
    | cons e rest ih =>
      unfold registryPut
      split
      · simp [registryFind]
      · split
        · simp [registryFind]
        · next he => simp [registryFind, he, ih]
  · rw [if_neg h]
    induction l with
    | nil => simp [registryPut, registryFind, h.symm]
    | cons e rest ih =>
      unfold registryPut
      split
      · simp [registryFind, h.symm]
      · split
        · next he => simp [registryFind, he, h.symm]
        · simp [registryFind, ih]

/-- Looking up after unregistering finds nothing at that address and every other as before. -/
theorem registryFind_remove (a a' : Addr7) (l : List (Addr7 × I2cTarget)) :
    registryFind a' (registryRemove a l) = if a' = a then none else registryFind a' l := by
  rcases eq_or_ne a' a with rfl | h
  · rw [if_pos rfl]
    induction l with
    | nil => rfl
    | cons e rest ih =>
      unfold registryRemove
      split
      · exact ih
      · next he => simp [registryFind, he, ih]
  · rw [if_neg h]
    induction l with
    | nil => rfl
    | cons e rest ih =>
      unfold registryRemove
      split
      · next he => simp [registryFind, he, h.symm, ih]
      · simp [registryFind, ih]

/-! ### The registry's canonical form -/

/-- An entry stands before a registry: its address is below that of the first entry. -/
def StandsBefore (e : Addr7 × I2cTarget) : List (Addr7 × I2cTarget) → Prop
  | [] => True
  | f :: _ => e.1.toNat < f.1.toNat

/-- The canonical form, one entry at a time. -/
theorem registryWellFormed_cons (e : Addr7 × I2cTarget) (l : List (Addr7 × I2cTarget)) :
    registryWellFormed (e :: l) = true ↔ e.2.address = e.1 ∧ StandsBefore e l ∧ registryWellFormed l = true := by
  cases l with
  | nil => simp [registryWellFormed, StandsBefore]
  | cons f rest => simp [registryWellFormed, StandsBefore, and_assoc]

theorem standsBefore_put {e : Addr7 × I2cTarget} {a : Addr7} {t : I2cTarget} {l : List (Addr7 × I2cTarget)}
    (h : StandsBefore e l) (ha : e.1.toNat < a.toNat) : StandsBefore e (registryPut a t l) := by
  cases l with
  | nil => exact ha
  | cons f rest =>
    unfold registryPut
    split
    · exact ha
    · split
      · exact ha
      · exact h

/-- Registering a target under its own address keeps the canonical form. -/
theorem registryPut_wellFormed {a : Addr7} {t : I2cTarget} (hat : t.address = a) (l : List (Addr7 × I2cTarget))
    (h : registryWellFormed l = true) : registryWellFormed (registryPut a t l) = true := by
  induction l with
  | nil => simp [registryPut, registryWellFormed, hat]
  | cons e rest ih =>
    obtain ⟨he, hb, hr⟩ := (registryWellFormed_cons e rest).1 h
    unfold registryPut
    split
    · next hlt => exact (registryWellFormed_cons _ _).2 ⟨hat, hlt, h⟩
    · split
      · next hea =>
        subst hea
        exact (registryWellFormed_cons _ _).2 ⟨hat, by cases rest <;> exact hb, hr⟩
      · next hge hne =>
        refine (registryWellFormed_cons _ _).2 ⟨he, standsBefore_put hb ?_, ih hr⟩
        have : e.1.toNat ≠ a.toNat := fun k => hne (BitVec.eq_of_toNat_eq k)
        omega

theorem standsBefore_remove {e : Addr7 × I2cTarget} {a : Addr7} {l : List (Addr7 × I2cTarget)}
    (hl : registryWellFormed l = true) (h : StandsBefore e l) : StandsBefore e (registryRemove a l) := by
  induction l with
  | nil => exact h
  | cons f rest ih =>
    obtain ⟨-, hb, hr⟩ := (registryWellFormed_cons f rest).1 hl
    unfold registryRemove
    split
    · refine ih hr ?_
      cases rest with
      | nil => trivial
      | cons g tail => exact lt_trans (show e.1.toNat < f.1.toNat from h) hb
    · exact h

/-- Unregistering keeps the canonical form. -/
theorem registryRemove_wellFormed (a : Addr7) (l : List (Addr7 × I2cTarget)) (h : registryWellFormed l = true) :
    registryWellFormed (registryRemove a l) = true := by
  induction l with
  | nil => exact h
  | cons e rest ih =>
    obtain ⟨he, hb, hr⟩ := (registryWellFormed_cons e rest).1 h
    unfold registryRemove
    split
    · exact ih hr
    · exact (registryWellFormed_cons _ _).2 ⟨he, standsBefore_remove hr hb, ih hr⟩

end Sys2Proof.Machine
end

