-- ==== Sys2Proof/Laws/PerInstr.lean ====
section
/-! SUPPORT. For every operation: its encoding has the fixed bits of its row of spec/opcode_table.json. -/

namespace Sys2Proof.Laws

/-- The fixed bits of an operation's row: which of the two words it is, and its mask and match. -/
inductive FixedBits where
  | cycle (mask value : CycleWord)
  | line (mask value : LineCode)
deriving DecidableEq, Repr

/-- The row of spec/opcode_table.json of each operation. -/
def fixedBits (i : Instr) : FixedBits :=
  match i with
  | .wrOrb _ => .cycle 0x1F00 0x1000
  | .wrOra _ => .cycle 0x1F00 0x1100
  | .wrDdrb _ => .cycle 0x1F00 0x1200
  | .wrDdra _ => .cycle 0x1F00 0x1300
  | .wrTmr4 _ => .cycle 0x1F00 0x1400
  | .wrTmr5 _ => .cycle 0x1F00 0x1500
  | .wrTmr6 _ => .cycle 0x1F00 0x1600
  | .wrTmr7 _ => .cycle 0x1F00 0x1700
  | .wrTmr8 _ => .cycle 0x1F00 0x1800
  | .wrTmr9 _ => .cycle 0x1F00 0x1900
  | .wrSr _ => .cycle 0x1F00 0x1A00
  | .wrAcr _ => .cycle 0x1F00 0x1B00
  | .wrPcr _ => .cycle 0x1F00 0x1C00
  | .wrIfr _ => .cycle 0x1F00 0x1D00
  | .wrIer _ => .cycle 0x1F00 0x1E00
  | .wrOra15 _ => .cycle 0x1F00 0x1F00
  | .rdOrb => .cycle 0x1F00 0x0000
  | .rdOra => .cycle 0x1F00 0x0100
  | .rdDdrb => .cycle 0x1F00 0x0200
  | .rdDdra => .cycle 0x1F00 0x0300
  | .rdTmr4 => .cycle 0x1F00 0x0400
  | .rdTmr5 => .cycle 0x1F00 0x0500
  | .rdTmr6 => .cycle 0x1F00 0x0600
  | .rdTmr7 => .cycle 0x1F00 0x0700
  | .rdTmr8 => .cycle 0x1F00 0x0800
  | .rdTmr9 => .cycle 0x1F00 0x0900
  | .rdSr => .cycle 0x1F00 0x0A00
  | .rdAcr => .cycle 0x1F00 0x0B00
  | .rdPcr => .cycle 0x1F00 0x0C00
  | .rdIfr => .cycle 0x1F00 0x0D00
  | .rdIer => .cycle 0x1F00 0x0E00
  | .rdOra15 => .cycle 0x1F00 0x0F00
  | .evStart => .line 0xF 0xE
  | .evStop => .line 0xF 0xB
  | .evRise _ _ => .line 0xA 0x2
  | .evFall _ _ => .line 0xA 0x8
  | .evSetupSdaRise => .line 0xF 0x1
  | .evSetupSdaFall => .line 0xF 0x4
  | .evNochange0 => .line 0xF 0x0
  | .evNochange5 => .line 0xF 0x5
  | .evNochangeA => .line 0xF 0xA
  | .evNochangeF => .line 0xF 0xF

/-- A word or code has a row's fixed bits. -/
def hasFixedBits (w : CodedWord) (f : FixedBits) : Prop :=
  match w, f with
  | .cycle w, .cycle mask value => w &&& mask = value
  | .line c, .line mask value => c &&& mask = value
  | .cycle _, .line _ _ => False
  | .line _, .cycle _ _ => False

theorem cycleWord_mask (w : Bit) (off : BitVec 4) (v : Byte) :
    cycleWord w off v &&& 0x1F00#13 = cycleWord w off 0 := by
  unfold cycleWord
  ext i hi
  have hm : (0x1F00#13)[i] = decide (8 ≤ i) := by
    revert i; decide
  rcases Nat.lt_or_ge i 8 with h | h
  · have h12 : i < 12 := by omega
    simp only [BitVec.getElem_and]
    rw [hm]
    simp [h, h12]
  · simp only [BitVec.getElem_and]
    rw [hm]
    simp [h]

/-- The encoding of `i` has its row's fixed bits. -/
def OpcodeRow.Statement (i : Instr) : Prop := hasFixedBits (encodeCoded i) (fixedBits i)

theorem OpcodeRow.wrOrb (v : Byte) : OpcodeRow.Statement (.wrOrb v) := cycleWord_mask _ _ v
theorem OpcodeRow.wrOra (v : Byte) : OpcodeRow.Statement (.wrOra v) := cycleWord_mask _ _ v
theorem OpcodeRow.wrDdrb (v : Byte) : OpcodeRow.Statement (.wrDdrb v) := cycleWord_mask _ _ v
theorem OpcodeRow.wrDdra (v : Byte) : OpcodeRow.Statement (.wrDdra v) := cycleWord_mask _ _ v
theorem OpcodeRow.wrTmr4 (v : Byte) : OpcodeRow.Statement (.wrTmr4 v) := cycleWord_mask _ _ v
theorem OpcodeRow.wrTmr5 (v : Byte) : OpcodeRow.Statement (.wrTmr5 v) := cycleWord_mask _ _ v
theorem OpcodeRow.wrTmr6 (v : Byte) : OpcodeRow.Statement (.wrTmr6 v) := cycleWord_mask _ _ v
theorem OpcodeRow.wrTmr7 (v : Byte) : OpcodeRow.Statement (.wrTmr7 v) := cycleWord_mask _ _ v
theorem OpcodeRow.wrTmr8 (v : Byte) : OpcodeRow.Statement (.wrTmr8 v) := cycleWord_mask _ _ v
theorem OpcodeRow.wrTmr9 (v : Byte) : OpcodeRow.Statement (.wrTmr9 v) := cycleWord_mask _ _ v
theorem OpcodeRow.wrSr (v : Byte) : OpcodeRow.Statement (.wrSr v) := cycleWord_mask _ _ v
theorem OpcodeRow.wrAcr (v : Byte) : OpcodeRow.Statement (.wrAcr v) := cycleWord_mask _ _ v
theorem OpcodeRow.wrPcr (v : Byte) : OpcodeRow.Statement (.wrPcr v) := cycleWord_mask _ _ v
theorem OpcodeRow.wrIfr (v : Byte) : OpcodeRow.Statement (.wrIfr v) := cycleWord_mask _ _ v
theorem OpcodeRow.wrIer (v : Byte) : OpcodeRow.Statement (.wrIer v) := cycleWord_mask _ _ v
theorem OpcodeRow.wrOra15 (v : Byte) : OpcodeRow.Statement (.wrOra15 v) := cycleWord_mask _ _ v
theorem OpcodeRow.rdOrb : OpcodeRow.Statement .rdOrb := cycleWord_mask _ _ 0
theorem OpcodeRow.rdOra : OpcodeRow.Statement .rdOra := cycleWord_mask _ _ 0
theorem OpcodeRow.rdDdrb : OpcodeRow.Statement .rdDdrb := cycleWord_mask _ _ 0
theorem OpcodeRow.rdDdra : OpcodeRow.Statement .rdDdra := cycleWord_mask _ _ 0
theorem OpcodeRow.rdTmr4 : OpcodeRow.Statement .rdTmr4 := cycleWord_mask _ _ 0
theorem OpcodeRow.rdTmr5 : OpcodeRow.Statement .rdTmr5 := cycleWord_mask _ _ 0
theorem OpcodeRow.rdTmr6 : OpcodeRow.Statement .rdTmr6 := cycleWord_mask _ _ 0
theorem OpcodeRow.rdTmr7 : OpcodeRow.Statement .rdTmr7 := cycleWord_mask _ _ 0
theorem OpcodeRow.rdTmr8 : OpcodeRow.Statement .rdTmr8 := cycleWord_mask _ _ 0
theorem OpcodeRow.rdTmr9 : OpcodeRow.Statement .rdTmr9 := cycleWord_mask _ _ 0
theorem OpcodeRow.rdSr : OpcodeRow.Statement .rdSr := cycleWord_mask _ _ 0
theorem OpcodeRow.rdAcr : OpcodeRow.Statement .rdAcr := cycleWord_mask _ _ 0
theorem OpcodeRow.rdPcr : OpcodeRow.Statement .rdPcr := cycleWord_mask _ _ 0
theorem OpcodeRow.rdIfr : OpcodeRow.Statement .rdIfr := cycleWord_mask _ _ 0
theorem OpcodeRow.rdIer : OpcodeRow.Statement .rdIer := cycleWord_mask _ _ 0
theorem OpcodeRow.rdOra15 : OpcodeRow.Statement .rdOra15 := cycleWord_mask _ _ 0
theorem OpcodeRow.evStart : OpcodeRow.Statement .evStart := rfl
theorem OpcodeRow.evStop : OpcodeRow.Statement .evStop := rfl
theorem OpcodeRow.evRise (a b : Bit) : OpcodeRow.Statement (.evRise a b) := by
  change lineCode 0 a 1 b &&& 0xA = 0x2
  revert a b; decide
theorem OpcodeRow.evFall (a b : Bit) : OpcodeRow.Statement (.evFall a b) := by
  change lineCode 1 a 0 b &&& 0xA = 0x8
  revert a b; decide
theorem OpcodeRow.evSetupSdaRise : OpcodeRow.Statement .evSetupSdaRise := rfl
theorem OpcodeRow.evSetupSdaFall : OpcodeRow.Statement .evSetupSdaFall := rfl
theorem OpcodeRow.evNochange0 : OpcodeRow.Statement .evNochange0 := rfl
theorem OpcodeRow.evNochange5 : OpcodeRow.Statement .evNochange5 := rfl
theorem OpcodeRow.evNochangeA : OpcodeRow.Statement .evNochangeA := rfl
theorem OpcodeRow.evNochangeF : OpcodeRow.Statement .evNochangeF := rfl

end Sys2Proof.Laws
end

