-- ==== Sys2Proof/Tests/Slice0.lean ====
section
/-! SUPPORT. The model's own tests: words written out from the spec's encodings, the refusals of the well-formedness
checks, one step per test with the result taken from 95_test_vectors.md (V), and a witness for the hypotheses of each
statement. -/

namespace Sys2Proof.Tests

open Sys2Proof.Machine

/-! ### Helpers -/

/-- A field of the next state, if there is one. -/
def after {α : Type} (o : Host.Outcome State Fault Refusal) (f : State → α) : Option α :=
  match o with
  | .next t => some (f t)
  | .fault _ => none
  | .refused _ => none

/-- The refusal, if there is one. -/
def refusal (o : Host.Outcome State Fault Refusal) : Option Refusal :=
  match o with
  | .next _ => none
  | .fault _ => none
  | .refused r => some r

/-- The operation decoded, if there is one. -/
def decoded (bytes : List Byte) : Option Instr := (decode bytes).toOption

/-- Why nothing is decoded. -/
def rejected (bytes : List Byte) : Option DecodeError :=
  match decode bytes with
  | .ok _ => none
  | .error e => some e

/-- The reset state with the framer in a state at a count, the RTC addressed. -/
def framer (st : I2cState) (count : Fin 10) (shift : Byte) : State :=
  { State.reset with i2cState := st, i2cBitcnt := count, i2cShift := shift, i2cTarget := some 0x68 }

/-- The reset state with the RTC at a pointer. -/
def rtcAt (p : Fin 19) : State := { State.reset with rtc := { State.reset.rtc with ptr := p } }

/-- The RTC waiting for a pointer byte. -/
def rtcWaiting : Rtc := rtcResetPointer State.reset.rtc

/-- The address of the abstract device below. -/
def deviceAt50 : I2cDevice := ⟨1, 0x50⟩

/-- The last address bit of a byte whose first seven bits are `shift`, with a device at 0x50 beside the RTC. -/
def lastAddressBit (shift : Byte) : State :=
  { State.reset with
    i2cState := .address, i2cBitcnt := 7, i2cShift := shift
    i2cTargets := [(0x50, .device deviceAt50), (0x68, .rtc)] }

/-- The reset state with one pending input. -/
def pending (i : Input) : State := { State.reset with trace := [i] }

/-- The calls after those of reset. -/
def newCalls (s : State) : List TargetCall := s.calls.drop State.reset.calls.length

/-- Chip select 0 selected and DDRB as the system's setup writes it. -/
def spiReady : State := { State.reset with ora := 0x3E, ddrb := 0x05, spiSel := some 0 }

/-! ### Decode: each word written out from 30_encoding.md R81, R83 and R86, low byte first -/

theorem test_decode_wrOrb : decoded [0b10100101, 0b00010000] = some (.wrOrb 0b10100101) := by decide
theorem test_decode_wrOra : decoded [0b01111110, 0b00010001] = some (.wrOra 0b01111110) := by decide
theorem test_decode_wrDdrb : decoded [0b10000001, 0b00010010] = some (.wrDdrb 0b10000001) := by decide
theorem test_decode_wrDdra : decoded [0b11000000, 0b00010011] = some (.wrDdra 0b11000000) := by decide
theorem test_decode_wrTmr4 : decoded [0b00000001, 0b00010100] = some (.wrTmr4 0b00000001) := by decide
theorem test_decode_wrTmr5 : decoded [0b00000010, 0b00010101] = some (.wrTmr5 0b00000010) := by decide
theorem test_decode_wrTmr6 : decoded [0b00000100, 0b00010110] = some (.wrTmr6 0b00000100) := by decide
theorem test_decode_wrTmr7 : decoded [0b00001000, 0b00010111] = some (.wrTmr7 0b00001000) := by decide
theorem test_decode_wrTmr8 : decoded [0b00010000, 0b00011000] = some (.wrTmr8 0b00010000) := by decide
theorem test_decode_wrTmr9 : decoded [0b00100000, 0b00011001] = some (.wrTmr9 0b00100000) := by decide
theorem test_decode_wrSr : decoded [0b01000000, 0b00011010] = some (.wrSr 0b01000000) := by decide
theorem test_decode_wrAcr : decoded [0b10000000, 0b00011011] = some (.wrAcr 0b10000000) := by decide
theorem test_decode_wrPcr : decoded [0b11110000, 0b00011100] = some (.wrPcr 0b11110000) := by decide
theorem test_decode_wrIfr : decoded [0b00001111, 0b00011101] = some (.wrIfr 0b00001111) := by decide
theorem test_decode_wrIer : decoded [0b10000010, 0b00011110] = some (.wrIer 0b10000010) := by decide
theorem test_decode_wrOra15 : decoded [0b00111110, 0b00011111] = some (.wrOra15 0b00111110) := by decide
theorem test_decode_rdOrb : decoded [0b11111111, 0b00000000] = some .rdOrb := by decide
theorem test_decode_rdOra : decoded [0b00000000, 0b00000001] = some .rdOra := by decide
theorem test_decode_rdDdrb : decoded [0b11111111, 0b00000010] = some .rdDdrb := by decide
theorem test_decode_rdDdra : decoded [0b00000000, 0b00000011] = some .rdDdra := by decide
theorem test_decode_rdTmr4 : decoded [0b11111111, 0b00000100] = some .rdTmr4 := by decide
theorem test_decode_rdTmr5 : decoded [0b00000000, 0b00000101] = some .rdTmr5 := by decide
theorem test_decode_rdTmr6 : decoded [0b11111111, 0b00000110] = some .rdTmr6 := by decide
theorem test_decode_rdTmr7 : decoded [0b00000000, 0b00000111] = some .rdTmr7 := by decide
theorem test_decode_rdTmr8 : decoded [0b11111111, 0b00001000] = some .rdTmr8 := by decide
theorem test_decode_rdTmr9 : decoded [0b00000000, 0b00001001] = some .rdTmr9 := by decide
theorem test_decode_rdSr : decoded [0b11111111, 0b00001010] = some .rdSr := by decide
theorem test_decode_rdAcr : decoded [0b00000000, 0b00001011] = some .rdAcr := by decide
theorem test_decode_rdPcr : decoded [0b11111111, 0b00001100] = some .rdPcr := by decide
theorem test_decode_rdIfr : decoded [0b00000000, 0b00001101] = some .rdIfr := by decide
theorem test_decode_rdIer : decoded [0b11111111, 0b00001110] = some .rdIer := by decide
theorem test_decode_rdOra15 : decoded [0b00000000, 0b00001111] = some .rdOra15 := by decide
theorem test_decode_evStart : decoded [0b1110] = some .evStart := by decide
theorem test_decode_evStop : decoded [0b1011] = some .evStop := by decide
theorem test_decode_evRise : [0b0010, 0b0011, 0b0110, 0b0111].map (fun c => decoded [c]) =
    [some (.evRise 0 0), some (.evRise 0 1), some (.evRise 1 0), some (.evRise 1 1)] := by decide
theorem test_decode_evFall : [0b1000, 0b1001, 0b1100, 0b1101].map (fun c => decoded [c]) =
    [some (.evFall 0 0), some (.evFall 0 1), some (.evFall 1 0), some (.evFall 1 1)] := by decide
theorem test_decode_evSetupSdaRise : decoded [0b0001] = some .evSetupSdaRise := by decide
theorem test_decode_evSetupSdaFall : decoded [0b0100] = some .evSetupSdaFall := by decide
theorem test_decode_evNochange0 : decoded [0b0000] = some .evNochange0 := by decide
theorem test_decode_evNochange5 : decoded [0b0101] = some .evNochange5 := by decide
theorem test_decode_evNochangeA : decoded [0b1010] = some .evNochangeA := by decide
theorem test_decode_evNochangeF : decoded [0b1111] = some .evNochangeF := by decide

theorem test_decode_rejects_empty : rejected [] = some .badLength := by decide
theorem test_decode_rejects_three_bytes : rejected [0x00, 0x01, 0x02] = some .badLength := by decide
theorem test_decode_rejects_bit_13 : rejected [0x00, 0b00100000] = some .bitsAboveCycleWord := by decide
theorem test_decode_rejects_bit_4 : rejected [0b00010000] = some .bitsAboveLineCode := by decide

theorem test_table_word_cycle : decodeTableWord 13 0x113E = some (.wrOra 0x3E) := by decide
theorem test_table_word_line : decodeTableWord 4 0xE = some .evStart := by decide

/-- The sixteen rows of 30_encoding.md R86 and the words of 42_i2c_framer.md R162 give the same classes. -/
theorem test_classes_agree : ∀ c : LineCode, classOf (decodeLine c) = some (eventClass c) := by decide

/-! ### WellFormed: what each check refuses -/

theorem test_wellFormed_record_two_bytes : recordWellFormed [0xFF, 0x1F] = true := by decide
theorem test_illFormed_record_bit_13 : recordWellFormed [0x00, 0x20] = false := by decide
theorem test_wellFormed_record_one_byte : recordWellFormed [0x0F] = true := by decide
theorem test_illFormed_record_bit_4 : recordWellFormed [0x10] = false := by decide
theorem test_illFormed_record_length : recordWellFormed [0x00, 0x00, 0x00] = false := by decide
theorem test_wellFormed_base : Config.wellFormed { Config.default with base := 0xFFF0 } = true := by decide
theorem test_illFormed_base : Config.wellFormed { Config.default with base := 0xFFF1 } = false := by decide
theorem test_illFormed_registry_order :
    registryWellFormed [(0x68, .rtc), (0x50, .device deviceAt50)] = false := by decide
theorem test_illFormed_registry_twice :
    registryWellFormed [(0x50, .device deviceAt50), (0x50, .device deviceAt50)] = false := by decide
theorem test_illFormed_registry_address : registryWellFormed [(0x69, .rtc)] = false := by decide
theorem test_illFormed_range : Config.rangeFree Config.default [(0x407F, 0x4090)] = false := by decide
theorem test_wellFormed_range : Config.rangeFree Config.default [(0x4080, 0x4090), (0x4060, 0x406F)] = true := by decide
/-- The one check that refuses nothing: every operation is legal (30_encoding.md R84). -/
theorem test_wellFormed_instr : Instr.wellFormed (.evRise 1 0) = true := by decide
theorem test_illFormed_construction_refused :
    refusal (construct { Config.default with base := 0xFFF1 } [] Config.defaultSpiTargets []) =
      some .badConfiguration := by decide

/-! ### Write cycles (V1, V2) -/

/-- V1.5: no bit is writable. -/
theorem test_wrOrb_masked : after (exec (.wrOrb 0xFF) State.reset) (fun t => (t.orb, t.spiLastSck)) = some (0x00, 0) := by
  decide
/-- V1.6: SCK rises with no target: no call. -/
theorem test_wrOrb_rise :
    after (exec (.wrOrb 0xFF) { State.reset with ddrb := 0x05 }) (fun t => (t.orb, t.spiLastSck, newCalls t)) =
      some (0x05, 1, []) := by decide
/-- V1.13: several chip selects cleared select none. -/
theorem test_wrOra_several : after (exec (.wrOra 0xC0) State.reset) (fun t => (t.ora, t.spiSel)) = some (0xC0, none) := by
  decide
/-- V2.5: the outgoing target is deselected before the incoming one is selected. -/
theorem test_wrOra_change :
    after (exec (.wrOra 0x3D) { spiReady with spiTargets := spiReady.spiTargets.set 1 (some (.device 1)) })
      (fun t => (t.spiSel, newCalls t)) =
      some (some 1, [.spi .sdCard .deselect, .spi (.device 1) .select]) := by decide
/-- V1.7: no SCK edge. -/
theorem test_wrDdrb :
    after (exec (.wrDdrb 0x00) { State.reset with ddrb := 0x05, orb := 0x05, spiLastSck := 1 })
      (fun t => (t.ddrb, t.orb, t.spiLastSck)) = some (0x00, 0x05, 1) := by decide
/-- E1.1: the write is a START. -/
theorem test_wrDdra_start :
    after (exec (.wrDdra 0x80) State.reset) (fun t => (t.ddra, t.i2cState, t.i2cLastSda)) = some (0x80, .address, 0) := by
  decide
/-- V2.10: a DDRA write decodes no chip select. -/
theorem test_wrDdra_no_select : after (exec (.wrDdra 0x3E) spiReady) (fun t => (t.ddra, t.spiSel)) = some (0x3E, some 0) := by
  decide
/-- V1.8. -/
theorem test_wrTmr4 : after (exec (.wrTmr4 0x12) State.reset) (fun t => (t.tmr4, t.tmr5)) = some (0x12, 0xFF) := by decide
theorem test_wrTmr5 : after (exec (.wrTmr5 0x12) State.reset) (fun t => (t.tmr5, t.tmr6)) = some (0x12, 0xFF) := by decide
theorem test_wrTmr6 : after (exec (.wrTmr6 0x12) State.reset) (fun t => (t.tmr6, t.tmr7)) = some (0x12, 0xFF) := by decide
theorem test_wrTmr7 : after (exec (.wrTmr7 0x12) State.reset) (fun t => (t.tmr7, t.tmr8)) = some (0x12, 0xFF) := by decide
theorem test_wrTmr8 : after (exec (.wrTmr8 0x12) State.reset) (fun t => (t.tmr8, t.tmr9)) = some (0x12, 0xFF) := by decide
/-- V1.9. -/
theorem test_wrTmr9 : after (exec (.wrTmr9 0x80) State.reset) (fun t => (t.tmr9, t.tmr8)) = some (0x80, 0xFF) := by decide
/-- V1.10. -/
theorem test_wrSr : after (exec (.wrSr 0x3C) State.reset) (fun t => (t.sr, t.i2cShift)) = some (0x3C, 0x00) := by decide
/-- V1.11. -/
theorem test_wrAcr : after (exec (.wrAcr 0x40) State.reset) (fun t => (t.acr, t.pcr)) = some (0x40, 0x00) := by decide
/-- V1.12. -/
theorem test_wrPcr : after (exec (.wrPcr 0x0E) State.reset) (fun t => (t.pcr, t.acr)) = some (0x0E, 0x00) := by decide
/-- R114 on a pending pattern no rule produces. -/
theorem test_wrIfr : after (exec (.wrIfr 0x81) { State.reset with ifr := 0x7F }) (·.ifr) = some 0x7E := by decide
/-- V1.19. -/
theorem test_wrIer_set : after (exec (.wrIer 0x82) State.reset) (·.ier) = some 0x02 := by decide
/-- V1.20. -/
theorem test_wrIer_clear : after (exec (.wrIer 0x02) { State.reset with ier := 0x03 }) (·.ier) = some 0x01 := by decide
/-- V2.11. -/
theorem test_wrOra15 :
    after (exec (.wrOra15 0x3F) spiReady) (fun t => (t.ora, t.spiSel, newCalls t)) =
      some (0x3F, none, [.spi .sdCard .deselect]) := by decide

/-! ### Read cycles (V1, V4) -/

/-- V1.3. -/
theorem test_rdOrb_no_target : after (exec .rdOrb State.reset) (·.lastRead) = some (some 0x02) := by decide
/-- V2.23: with a target present MISO is the stored bit. -/
theorem test_rdOrb_target : after (exec .rdOrb { spiReady with orb := 0x01 }) (·.lastRead) = some (some 0x01) := by decide
/-- V4.1. -/
theorem test_rdOra_staged_bit :
    after (exec .rdOra { framer .dataRead 3 0xD1 with i2cRdbyte := 0x37, ddra := 0x40 }) (·.lastRead) =
      some (some 0x80) := by decide
/-- V4.2. -/
theorem test_rdOra_driven :
    after (exec .rdOra { framer .dataRead 3 0xD1 with i2cRdbyte := 0x37, ddra := 0xC0 }) (·.lastRead) =
      some (some 0x00) := by decide
/-- V1.2. -/
theorem test_rdDdrb : after (exec .rdDdrb spiReady) (·.lastRead) = some (some 0x05) := by decide
/-- V1.16. -/
theorem test_rdDdra : after (exec .rdDdra { State.reset with ddra := 0x3F }) (·.lastRead) = some (some 0x3F) := by decide
/-- V1.1. -/
theorem test_rdTmr4 : after (exec .rdTmr4 { State.reset with tmr4 := 0x12 }) (·.lastRead) = some (some 0x12) := by decide
theorem test_rdTmr5 : after (exec .rdTmr5 { State.reset with tmr5 := 0x13 }) (·.lastRead) = some (some 0x13) := by decide
theorem test_rdTmr6 : after (exec .rdTmr6 { State.reset with tmr6 := 0x14 }) (·.lastRead) = some (some 0x14) := by decide
theorem test_rdTmr7 : after (exec .rdTmr7 { State.reset with tmr7 := 0x15 }) (·.lastRead) = some (some 0x15) := by decide
theorem test_rdTmr8 : after (exec .rdTmr8 { State.reset with tmr8 := 0x16 }) (·.lastRead) = some (some 0x16) := by decide
theorem test_rdTmr9 : after (exec .rdTmr9 { State.reset with tmr9 := 0x17 }) (·.lastRead) = some (some 0x17) := by decide
theorem test_rdSr : after (exec .rdSr { State.reset with sr := 0x3C }) (·.lastRead) = some (some 0x3C) := by decide
theorem test_rdAcr : after (exec .rdAcr { State.reset with acr := 0x40 }) (·.lastRead) = some (some 0x40) := by decide
theorem test_rdPcr : after (exec .rdPcr { State.reset with pcr := 0x0E }) (·.lastRead) = some (some 0x0E) := by decide
/-- V1.18. -/
theorem test_rdIfr_quiet : after (exec .rdIfr State.reset) (·.lastRead) = some (some 0x00) := by decide
/-- R130 on a pending pattern no rule produces. -/
theorem test_rdIfr_pending : after (exec .rdIfr { State.reset with ifr := 0x01 }) (·.lastRead) = some (some 0x81) := by
  decide
/-- V1.19. -/
theorem test_rdIer : after (exec .rdIer { State.reset with ier := 0x02 }) (·.lastRead) = some (some 0x82) := by decide
/-- V4.5. -/
theorem test_rdOra15_ack :
    after (exec .rdOra15 { framer .address 9 0xD0 with ora := 0x3F }) (·.lastRead) = some (some 0x3F) := by decide
/-- V4.4. -/
theorem test_rdOra15_nack :
    after (exec .rdOra15 { framer .address 9 0xA0 with ora := 0x3F, i2cSlaveAck := 1 }) (·.lastRead) =
      some (some 0xBF) := by decide

/-! ### Line events (V3, V5) -/

/-- V3.6: a repeated START keeps the target. -/
theorem test_evStart_repeated :
    after (exec .evStart (framer .address 3 0x05)) (fun t => (t.i2cState, t.i2cBitcnt, t.i2cShift, t.i2cTarget)) =
      some (.address, 0, 0x00, some 0x68) := by decide
/-- V3.5. -/
theorem test_evStop :
    after (exec .evStop (framer .address 3 0x05))
      (fun t => (t.i2cState, t.i2cBitcnt, t.i2cShift, t.i2cTarget, newCalls t)) =
      some (.idle, 3, 0x05, none, [.i2c .rtc .stop]) := by decide
/-- V3.21. -/
theorem test_evStop_suppressed :
    after (exec .evStop (framer .dataWrite 8 0xD0)) (fun t => (t.i2cState, t.i2cBitcnt, newCalls t)) =
      some (.dataWrite, 8, []) := by decide
/-- V3.2. -/
theorem test_evRise_shifts :
    after (exec (.evRise 0 1) (framer .address 3 0x05)) (fun t => (t.i2cBitcnt, t.i2cShift)) = some (4, 0x0B) := by decide
/-- V3.10. -/
theorem test_evRise_write_address :
    after (exec (.evRise 0 0) (framer .address 7 0x68)) (fun t => (t.i2cState, t.i2cBitcnt, t.i2cShift, newCalls t)) =
      some (.dataWrite, 8, 0xD0, [.i2c .rtc (.start 0), .i2c .rtc .resetPointer]) := by decide
/-- V3.30. -/
theorem test_evFall_nine : after (exec (.evFall 1 0) (framer .dataRead 9 0xD1)) (·.i2cBitcnt) = some 0 := by decide
/-- V3.23. -/
theorem test_evFall_eight : after (exec (.evFall 0 1) (framer .dataWrite 8 0xD0)) (·.i2cBitcnt) = some 8 := by decide
/-- V3.4. -/
theorem test_evSetupSdaRise :
    after (exec .evSetupSdaRise (framer .address 3 0x05)) (fun t => (t.i2cBitcnt, t.i2cLastScl, t.i2cLastSda)) =
      some (3, 0, 1) := by decide
theorem test_evSetupSdaFall :
    after (exec .evSetupSdaFall (framer .address 3 0x05)) (fun t => (t.i2cBitcnt, t.i2cLastScl, t.i2cLastSda)) =
      some (3, 0, 0) := by decide
theorem test_evNochange0 : after (exec .evNochange0 (framer .address 9 0x05)) id = some (framer .address 9 0x05) := by decide
theorem test_evNochange5 : after (exec .evNochange5 (framer .address 9 0x05)) id = some (framer .address 9 0x05) := by decide
theorem test_evNochangeA : after (exec .evNochangeA (framer .address 9 0x05)) id = some (framer .address 9 0x05) := by decide
theorem test_evNochangeF : after (exec .evNochangeF (framer .address 9 0x05)) id = some (framer .address 9 0x05) := by decide

/-! ### The RTC (V6), the clock given -/

/-- The wall clock of 95_test_vectors.md: Wednesday 2026-11-11, 14:05:37. -/
def clock : WallClock := ⟨2026, 10, 10, 14, 5, 37, 3⟩

/-- V6.10, but for the month register, whose bit 7 is OPEN. -/
theorem test_timeReg : [0, 1, 2, 3, 4, 6].map (fun r => timeReg r clock) = [0x37, 0x05, 0x14, 0x04, 0x11, 0x26] := by decide
/-- V6.10: the month below the OPEN bit. -/
theorem test_timeReg_month : (timeReg 5 clock).extractLsb' 0 7 = 0x11 := by
  have h : ∀ c : Bit, ((c.setWidth 8 <<< 7) ||| bcd 11).extractLsb' 0 7 = 0x11 := by decide
  exact h _
/-- V6.11. -/
theorem test_bcd : [0, 9, 10, 37, 59, 99].map bcd = [0x00, 0x09, 0x10, 0x37, 0x59, 0x99] := by decide
/-- V6.2, V6.3. -/
theorem test_pointer_modulo :
    [0x13, 0xFF].map (fun v => (rtcWriteByte Config.default v rtcWaiting).ptr) = [0, 8] := by decide
/-- V6.4. -/
theorem test_pointer_wraps :
    (fun r : Rtc => (r.reg[18], r.ptr)) (rtcWriteByte Config.default 0x55 (rtcAt 18).rtc) = (0x55, 0) := by decide
/-- V6.5, V6.6. -/
theorem test_status_register :
    [StatusWrite.replaceLow2, .xorLow2].map (fun w => rtcStored { Config.default with statusWrite := w } 0x0F 0x03 0x01) =
      [0x01, 0x02] := by decide

/-! ### Steps, addresses and the host -/

/-- E4: `W ORA, 0x3E`, fetched and run. -/
theorem test_step_cycle :
    after (step (State.reset.withFetchWord 13 0x113E)) (fun t => (t.ora, t.spiSel, t.trace)) = some (0x3E, some 0, []) := by
  decide
theorem test_step_line :
    after (step (State.reset.withFetchWord 4 0b1110)) (fun t => (t.i2cState, t.ddra)) = some (.address, 0x80) := by decide
theorem test_step_bad_record : refusal (step (pending (.record [0x10]))) = some (.badRecord .bitsAboveLineCode) := by decide
theorem test_step_levels_differ : refusal (step (pending (.record [0b0001]))) = some (.lineLevelsDiffer 0b0001) := by decide
theorem test_step_foreign_address :
    refusal (step (pending (.memRead 0x4080))) = some (.addressOfNoRegister 0x4080) := by decide
/-- V1.30. -/
theorem test_step_offset_16 : after (step (pending (.offRead 16))) (·.lastRead) = some (some 0xFF) := by decide
theorem test_memRead_base : after (memRead 0x4074 State.reset) (·.lastRead) = some (some 0xFF) := by decide
theorem test_memWrite_base : after (memWrite 0x4074 0x12 State.reset) (·.tmr4) = some 0x12 := by decide
/-- V6.14. -/
theorem test_host_reset :
    (hostAction .reset { rtcAt 18 with tmr4 := 0x00 }).rtc = State.reset.rtc ∧
      (hostAction .reset { rtcAt 18 with tmr4 := 0x00 }).tmr4 = 0xFF := by decide
theorem test_host_register :
    (hostAction (.registerI2c (.device deviceAt50)) State.reset).i2cTargets =
      [(0x50, .device deviceAt50), (0x68, .rtc)] := by decide

/-! ### The driver's words (95_test_vectors.md, Part 3) -/

theorem test_words_start : (Pseudo.i2cStart.expand 0 0).map TraceLine.word = [0x1380, 0x13C0] := by decide
theorem test_words_rstart :
    (Pseudo.i2cRstart.expand 0 0).map TraceLine.word = [0x1340, 0x1300, 0x1380, 0x13C0] := by decide
theorem test_words_stop : (Pseudo.i2cStop.expand 0 0).map TraceLine.word = [0x13C0, 0x1380, 0x1300] := by decide
theorem test_words_rack :
    (Pseudo.i2cRack.expand 0 0).map TraceLine.word = [0x1340, 0x1300, 0x0100, 0x1340] := by decide
theorem test_words_byte : ((Pseudo.i2cWbyte 0xD0).expand 0 0).map TraceLine.word =
    [0x1340, 0x1300, 0x1340, 0x1340, 0x1300, 0x1340, 0x13C0, 0x1380, 0x13C0, 0x1340, 0x1300, 0x1340,
     0x13C0, 0x1380, 0x13C0, 0x13C0, 0x1380, 0x13C0, 0x13C0, 0x1380, 0x13C0, 0x13C0, 0x1380, 0x13C0] := by decide

/-! ### Witnesses: the hypotheses of each statement can be met -/

theorem witness_StorageReadsReturnTheByte :
    ∃ t, exec (.wrTmr9 0x12) State.reset = .next t ∧ (∀ v, Instr.wrTmr9 0x12 ≠ .wrTmr4 v) ∧
      ∃ u, exec .rdOrb State.reset = .next u ∧ ∀ v, Instr.rdOrb ≠ .wrTmr9 v := ⟨_, rfl, nofun, _, rfl, nofun⟩
theorem witness_ControlRegistersAreInert :
    ∃ t, Instr.wrDdra 0x80 ≠ .rdAcr ∧ Instr.wrDdra 0x80 ≠ .rdPcr ∧ exec (.wrDdra 0x80) State.reset = .next t :=
  ⟨_, nofun, nofun, rfl⟩
theorem witness_ChipSelectFieldIsOneHot :
    csDecode 0b111110 = some 0 ∧ csDecode 0b011111 = some 5 ∧ csDecode 0b111111 = none ∧ csDecode 0b111100 = none := by
  decide
theorem witness_PortAWriteSelectsTarget : State.reset.levelsTracked := by decide
theorem witness_SpiMovesOnlyOnPortWrites :
    ∃ t, lineCodeOf (.wrDdra 0x80) = none ∧
      (∀ v, Instr.wrDdra 0x80 ≠ .wrOrb v ∧ Instr.wrDdra 0x80 ≠ .wrOra v ∧ Instr.wrDdra 0x80 ≠ .wrOra15 v) ∧
      exec (.wrDdra 0x80) State.reset = .next t :=
  ⟨_, rfl, fun _ => ⟨nofun, nofun, nofun⟩, rfl⟩
theorem witness_SdaReadBack_idle : State.reset.i2cState = .idle := by decide
theorem witness_SdaReadBack_first_bit :
    (framer .dataRead 1 0).i2cState = .dataRead ∧ (framer .dataRead 1 0).i2cBitcnt.val = 1 ∧ 1 ≤ 1 ∧ 1 ≤ 8 := by decide
theorem witness_SdaReadBack_last_bit :
    (framer .dataRead 8 0).i2cState = .dataRead ∧ (framer .dataRead 8 0).i2cBitcnt.val = 8 ∧ 1 ≤ 8 ∧ 8 ≤ 8 := by decide
theorem witness_SdaReadBack_before_first :
    (framer .dataRead 0 0).i2cState = .dataRead ∧ (framer .dataRead 0 0).i2cBitcnt = 0 := by decide
theorem witness_SdaReadBack_ack_of_read :
    (framer .dataRead 9 0).i2cState = .dataRead ∧ (framer .dataRead 9 0).i2cBitcnt = 9 := by decide
theorem witness_SdaReadBack_receiving :
    (framer .address 7 0).i2cState = .address ∧ (framer .address 7 0).i2cBitcnt.val < 8 ∧
      (framer .dataWrite 0 0).i2cState = .dataWrite ∧ (framer .dataWrite 0 0).i2cBitcnt.val < 8 := by decide
theorem witness_SdaReadBack_ack :
    (framer .address 8 0).i2cState = .address ∧ 8 ≤ (framer .address 8 0).i2cBitcnt.val ∧
      (framer .dataWrite 9 0).i2cState = .dataWrite ∧ 8 ≤ (framer .dataWrite 9 0).i2cBitcnt.val := by decide
theorem witness_StopIgnoredAtCounterEight :
    (framer .dataWrite 8 0).i2cBitcnt = 8 ∧ (framer .dataRead 9 0).i2cBitcnt = 9 := by decide
theorem witness_StopEndsTransaction :
    (framer .dataWrite 7 0).i2cBitcnt ≠ 8 ∧ (framer .dataWrite 9 0).i2cBitcnt ≠ 8 ∧
      addressedTarget (framer .dataWrite 9 0) = some .rtc ∧ addressedTarget State.reset = none := by decide
theorem witness_RiseShiftsAndCounts_first_bits :
    (framer .address 0 0).i2cBitcnt.val < 7 ∧ (framer .dataRead 6 0).i2cBitcnt.val < 7 := by decide
theorem witness_RiseShiftsAndCounts_eighth_idle :
    (framer .idle 7 0).i2cBitcnt = 7 ∧ (framer .idle 7 0).i2cState = .idle := by decide
theorem witness_EighthReadBitOnlyCounts :
    (framer .dataRead 7 0).i2cState = .dataRead ∧ (framer .dataRead 7 0).i2cBitcnt = 7 := by decide
theorem witness_AckClockFetchesOnMasterAck :
    (framer .dataRead 8 0).i2cBitcnt = 8 ∧ addressedTarget (framer .dataRead 8 0) = some .rtc := by decide
theorem witness_RiseAtNineOnlyMovesLevels : (framer .dataRead 9 0).i2cBitcnt = 9 := by decide
theorem witness_FramerMovesOnlyOnDdraWrites :
    ∃ t, lineCodeOf (.wrOra 0x3E) = none ∧ (∀ v, Instr.wrOra 0x3E ≠ .wrDdra v) ∧ State.reset.levelsTracked ∧
      exec (.wrOra 0x3E) State.reset = .next t :=
  ⟨_, rfl, nofun, by decide, rfl⟩
theorem witness_MissingAddressIsNacked :
    (lastAddressBit 0x51).i2cState = .address ∧ (lastAddressBit 0x51).i2cBitcnt = 7 ∧
      registryFind (((lastAddressBit 0x51).i2cShift <<< 1 ||| (0 : Bit).setWidth 8).extractLsb' 1 7)
        (lastAddressBit 0x51).i2cTargets = none := by decide
theorem witness_RtcReadAddressFetchesFirstByte :
    (lastAddressBit 0x68).i2cState = .address ∧ (lastAddressBit 0x68).i2cBitcnt = 7 ∧
      registryFind (((lastAddressBit 0x68).i2cShift <<< 1 ||| 1#8).extractLsb' 1 7)
        (lastAddressBit 0x68).i2cTargets = some .rtc := by decide
theorem witness_RtcWriteAddressResetsPointer :
    (lastAddressBit 0x68).i2cState = .address ∧ (lastAddressBit 0x68).i2cBitcnt = 7 ∧
      registryFind (((lastAddressBit 0x68).i2cShift <<< 1).extractLsb' 1 7)
        (lastAddressBit 0x68).i2cTargets = some .rtc := by decide
theorem witness_AddressedDeviceOpensOrStays :
    (lastAddressBit 0x50).i2cState = .address ∧ (lastAddressBit 0x50).i2cBitcnt = 7 ∧
      registryFind (((lastAddressBit 0x50).i2cShift <<< 1 ||| (1 : Bit).setWidth 8).extractLsb' 1 7)
        (lastAddressBit 0x50).i2cTargets = some (.device deviceAt50) := by decide
theorem witness_WrittenByteGoesToTarget :
    (framer .dataWrite 7 0).i2cState = .dataWrite ∧ (framer .dataWrite 7 0).i2cBitcnt = 7 ∧
      addressedTarget (framer .dataWrite 7 0) = some .rtc := by decide
theorem witness_RtcPointerByteIsReducedModulo19 : rtcWaiting.expectPtr = 1 := by decide
theorem witness_RtcDataByteStoredAtPointer :
    (rtcAt 18).rtc.expectPtr = 0 ∧ (rtcAt 18).rtc.ptr.val ≠ 0x0F ∧ (0 : Fin 19) ≠ (rtcAt 18).rtc.ptr := by decide
theorem witness_RtcDataByteStoredAtPointer_status :
    (rtcAt 15).rtc.expectPtr = 0 ∧ (rtcAt 15).rtc.ptr.val = 0x0F := by decide
theorem witness_RtcReadReturnsRegisterAtPointer_time :
    (rtcAt 0).rtc.ptr = 0 ∧ (rtcAt 1).rtc.ptr = 1 ∧ (rtcAt 2).rtc.ptr = 2 ∧ (rtcAt 3).rtc.ptr = 3 ∧
      (rtcAt 4).rtc.ptr = 4 ∧ (rtcAt 5).rtc.ptr = 5 ∧ (rtcAt 6).rtc.ptr = 6 := by decide
theorem witness_RtcReadReturnsRegisterAtPointer_stored :
    7 ≤ (rtcAt 7).rtc.ptr.val ∧ 7 ≤ (rtcAt 18).rtc.ptr.val := by decide
theorem witness_BcdHoldsTensAndUnits : 0 ≤ 99 ∧ 99 ≤ 99 := by decide
theorem witness_TimeRegistersIgnoreWrites : (0 : Fin 19).val ≤ 6 ∧ (6 : Fin 19).val ≤ 6 := by decide
theorem witness_RepeatedWriteChangesNothing_other_register :
    ∃ t, exec (writeAt 15 0x3E) State.reset = .next t ∧ (15 : BitVec 4) ≠ 0 := ⟨_, rfl, by decide⟩
theorem witness_RepeatedWriteChangesNothing_miso_masked :
    ∃ t, exec (writeAt 0 0x05) spiReady = .next t ∧ spiReady.ddrb.getLsbD 1 = false := ⟨_, rfl, by decide⟩
theorem witness_RepeatedWriteChangesNothing_no_target :
    ∃ t, exec (writeAt 0 0x05) { State.reset with ddrb := 0x07 } = .next t ∧
      spiTargetAt { State.reset with ddrb := 0x07 } State.reset.spiSel = none := ⟨_, rfl, by decide⟩
theorem witness_RepeatedWriteChangesNothing_miso_writable :
    ∃ t, exec (writeAt 0 0x07) { spiReady with ddrb := 0x07 } = .next t ∧ (2 : Nat) ≠ 1 ∧ (0 : Nat) ≠ 1 :=
  ⟨_, rfl, by decide, by decide⟩
theorem witness_OutOfRangeOffsetsAreHarmless_read :
    16 ≤ 16 ∧ (pending (.offRead 16)).trace = .offRead 16 :: [] := by decide
theorem witness_OutOfRangeOffsetsAreHarmless_write :
    16 ≤ 16 ∧ (pending (.offWrite 16 0xAA)).trace = .offWrite 16 0xAA :: [] := by decide
theorem witness_AddressesInRange_ends :
    (0x4070 : BusAddr).toNat = State.reset.cfg.base.toNat + (0 : BitVec 4).toNat ∧
      (0x407F : BusAddr).toNat = State.reset.cfg.base.toNat + (15 : BitVec 4).toNat := by decide
theorem witness_AddressesInRange_outside :
    (0x406F : BusAddr).toNat < State.reset.cfg.base.toNat ∧
      State.reset.cfg.base.toNat + 15 < (0x4080 : BusAddr).toNat := by decide
theorem witness_StepRunsTheDecodedRecord_cycle :
    (pending (.record [0x3E, 0x11])).trace = .record [0x3E, 0x11] :: [] ∧ decode [0x3E, 0x11] = .ok (.wrOra 0x3E) ∧
      lineCodeOf (.wrOra 0x3E) = none := ⟨rfl, rfl, rfl⟩
theorem witness_StepRunsTheDecodedRecord_line :
    (pending (.record [0b1110])).trace = .record [0b1110] :: [] ∧ decode [0b1110] = .ok .evStart ∧
      lineCodeOf .evStart = some 0b1110 ∧
      lineSclOld 0b1110 = (pending (.record [0b1110])).i2cLastScl ∧
      lineSdaOld 0b1110 = (pending (.record [0b1110])).i2cLastSda := ⟨rfl, rfl, rfl, rfl, rfl⟩
theorem witness_StepIdlesOrRunsHostActions_idle : State.reset.trace = [] := by decide
theorem witness_StepIdlesOrRunsHostActions_host : (pending (.host .reset)).trace = .host .reset :: [] := by decide
theorem witness_NoStepChangesTheConstants : ∃ t, step (pending (.host .reset)) = .next t := ⟨_, rfl⟩
theorem witness_InvariantKeptByEveryStep :
    ∃ t, (pending (.record [0x80, 0x13])).Inv ∧ step (pending (.record [0x80, 0x13])) = .next t :=
  ⟨_, by decide, rfl⟩
theorem witness_DecodeOfEncode : Instr.wellFormed (.wrOra15 0xFF) = true := by decide
theorem witness_EncodeOfDecode : cycleW 0x1FFF = 1 ∧ cycleW 0x0FFF = 0 := by decide
theorem witness_OverlappingConfigurationIsRefused_low :
    Config.wellFormed { Config.default with base := 0x3FF1 } = true ∧ registryWellFormed Config.defaultI2cTargets = true ∧
      ∃ r ∈ Config.otherDevices, r.1 ≤ (0x3FF1 : BusAddr).toNat + 15 ∧ (0x3FF1 : BusAddr).toNat ≤ r.2 := by decide
theorem witness_OverlappingConfigurationIsRefused_high :
    Config.wellFormed { Config.default with base := 0x400F } = true ∧ registryWellFormed Config.defaultI2cTargets = true ∧
      ∃ r ∈ Config.otherDevices, r.1 ≤ (0x400F : BusAddr).toNat + 15 ∧ (0x400F : BusAddr).toNat ≤ r.2 := by decide

end Sys2Proof.Tests
end

section
/-! PROOFS, 10_state.md. The register file after reset, and the one ORA field behind offsets 1 and 15 (R21). -/

namespace Sys2Proof.Machine

/-! ### The port-A cycles: which shared operation each of the four runs -/

theorem exec_wrOra (v : Byte) (s : State) : exec (.wrOra v) s = .next (writePortA v s) := rfl
theorem exec_wrOra15 (v : Byte) (s : State) : exec (.wrOra15 v) s = .next (writePortA v s) := rfl
theorem exec_rdOra (s : State) : exec .rdOra s = .next (s.answer (portARead s)) := rfl
theorem exec_rdOra15 (s : State) : exec .rdOra15 s = .next (s.answer (portARead s)) := rfl

/-- A write at offset 15 is the write at offset 1 (10_state.md R21; 40_register_file.md R116). -/
theorem exec_wrOra15_eq_wrOra (v : Byte) (s : State) : exec (.wrOra15 v) s = exec (.wrOra v) s := by
  rw [exec_wrOra15, exec_wrOra]

/-- A read at offset 15 is the read at offset 1 (10_state.md R21; 40_register_file.md R132). -/
theorem exec_rdOra15_eq_rdOra (s : State) : exec .rdOra15 s = exec .rdOra s := by
  rw [exec_rdOra15, exec_rdOra]

/-- Settles O54: the fifteen registers are read off `State.initial`, of which `State.reset` changes only the call
history; the two names of ORA run the same port-A operation in every state. -/
theorem resetRegisterFileValues : Obligations.ResetRegisterFileValues := by
  unfold Obligations.ResetRegisterFileValues
  have ora_names (v : Byte) (s : State) :
      exec (.wrOra15 v) s = exec (.wrOra v) s ∧ exec .rdOra15 s = exec .rdOra s :=
    ⟨exec_wrOra15_eq_wrOra v s, exec_rdOra15_eq_rdOra s⟩
  exact ⟨rfl, rfl, rfl, rfl,      -- ORB, ORA, DDRB, DDRA
    rfl, rfl, rfl, rfl, rfl, rfl, -- TMR4 to TMR9
    rfl, rfl, rfl, rfl, rfl,      -- SR, ACR, PCR, IFR, IER
    ora_names⟩

end Sys2Proof.Machine
end

section
/-! PROOFS, 30_encoding.md. The two data fields a port write decodes bit by bit: the IFR clear mask (R93) and the
active-low one-hot chip-select field (R90). -/

namespace Sys2Proof.Machine

/-! ### IFR write data -/

theorem exec_wrIfr (v : Byte) (s : State) : exec (.wrIfr v) s = .next { s with ifr := ifrAfterWrite s.ifr v } := rfl

/-- The mask is taken from `v[6:0]`, so only a bit below 7 of the data is ever looked at. -/
theorem getLsbD_ifrAfterWrite (ifr : BitVec 7) (v : Byte) {i : Nat} (hi : i < 7) :
    (ifrAfterWrite ifr v).getLsbD i = (ifr.getLsbD i && !v.getLsbD i) := by
  simp [ifrAfterWrite, hi]

/-- Settles O5: the new IFR is `ifrAfterWrite` of the old one, read off bit by bit. -/
theorem ifrWriteClearsNamedBits : Obligations.IfrWriteClearsNamedBits := by
  unfold Obligations.IfrWriteClearsNamedBits
  intro v s
  exact ⟨ifrAfterWrite s.ifr v, exec_wrIfr v s, fun _ hi => getLsbD_ifrAfterWrite s.ifr v hi⟩

/-! ### The chip-select field -/

/-- The six arms of the decode are the six powers of two among the values of the cleared bits. -/
theorem csDecode_eq_some_iff_cleared (f : BitVec 6) (i : CsIndex) :
    csDecode f = some i ↔ ~~~f = BitVec.twoPow 6 i.val := by
  rw [← BitVec.toNat_inj]
  constructor
  · intro h
    unfold csDecode at h
    split at h
    case h_7 => cases h
    all_goals
      next hz =>
        cases h
        exact hz
  · intro hz
    unfold csDecode
    rw [hz]
    fin_cases i <;> rfl

/-- `2^i` is the word with bit `i` alone set; complemented, the field with bit `i` alone clear. -/
theorem complement_eq_twoPow_iff (f : BitVec 6) (i : CsIndex) :
    ~~~f = BitVec.twoPow 6 i.val ↔ ∀ j : Fin 6, f.getLsbD j.val = decide (j ≠ i) := by
  have bit_iff (j : Fin 6) : (~~~f).getLsbD j.val = (BitVec.twoPow 6 i.val).getLsbD j.val ↔
      f.getLsbD j.val = decide (j ≠ i) := by
    have twoPow_bit : (BitVec.twoPow 6 i.val).getLsbD j.val = decide (j = i) := by
      simp [Fin.ext_iff, eq_comm]
    rw [BitVec.getLsbD_not, twoPow_bit]
    by_cases hji : j = i <;> simp [hji]
  constructor
  · intro h j
    exact (bit_iff j).mp (by rw [h])
  · intro h
    refine BitVec.eq_of_getLsbD_eq fun j hj => ?_
    exact (bit_iff ⟨j, hj⟩).mpr (h ⟨j, hj⟩)

/-- Settles O11: the decode looks for a power of two among the cleared bits, which says which bits are 0. -/
theorem chipSelectFieldIsOneHot : Obligations.ChipSelectFieldIsOneHot := by
  unfold Obligations.ChipSelectFieldIsOneHot
  intro f i
  rw [csDecode_eq_some_iff_cleared, complement_eq_twoPow_iff]

end Sys2Proof.Machine
end

section
/-! PROOFS, 40_register_file.md. The plain read and write cycles (R103, R105-R111, R119-R129), the timer cells that only
their own writes change (R121-R126), and the overlaid bits of the IER and port-A reads (R118, R131, R132). -/

namespace Sys2Proof.Machine

/-! ### The plain cycles -/

theorem exec_wrAcr (v : Byte) (s : State) : exec (.wrAcr v) s = .next { s with acr := v } := rfl
theorem exec_wrPcr (v : Byte) (s : State) : exec (.wrPcr v) s = .next { s with pcr := v } := rfl
theorem exec_rdIer (s : State) : exec .rdIer s = .next (s.answer (ierRead s.ier)) := rfl

/-- Settles O2: each arm is the record update the statement writes out. -/
theorem storageWritesStoreTheByte : Obligations.StorageWritesStoreTheByte := by
  unfold Obligations.StorageWritesStoreTheByte
  intro v s
  exact ⟨rfl,                     -- DDRB
    rfl, rfl, rfl, rfl, rfl, rfl, -- TMR4 to TMR9
    rfl, exec_wrAcr v s, exec_wrPcr v s⟩

/-! ### The IER read -/

theorem getLsbD_ierRead_seven (ier : BitVec 7) : (ierRead ier).getLsbD 7 = true := by
  simp [ierRead]

/-- Below bit 7 the constant `0x80` contributes nothing. -/
theorem getLsbD_ierRead (ier : BitVec 7) {i : Nat} (hi : i < 7) : (ierRead ier).getLsbD i = ier.getLsbD i := by
  have constant_clear : (0x80#8).getLsbD i = false := by
    revert i; decide
  have hi8 : i < 8 := by omega
  rw [ierRead, BitVec.getLsbD_or, constant_clear, BitVec.getLsbD_setWidth]
  simp [hi8]

/-- Settles O8: the byte is `ierRead` of the stored bits. -/
theorem ierReadForcesBitSeven : Obligations.IerReadForcesBitSeven := by
  unfold Obligations.IerReadForcesBitSeven
  intro s
  exact ⟨ierRead s.ier, exec_rdIer s, getLsbD_ierRead_seven s.ier, fun _ hi => getLsbD_ierRead s.ier hi⟩

/-! ### The port-A read -/

/-- The overlay keeps bits 6..0: the mask passes them and the shifted read-back does not reach them. -/
theorem getLsbD_portARead (s : State) {i : Nat} (hi : i < 7) : (portARead s).getLsbD i = s.ora.getLsbD i := by
  unfold portARead
  split
  · have mask_set : (0x7F#8).getLsbD i = true := by
      revert i; decide
    simp [mask_set, hi]
  · rfl

/-- The overlay decides bit 7 alone: the mask clears the stored bit there and the read-back takes its place. -/
theorem extractLsb'_portARead_seven (s : State) :
    (portARead s).extractLsb' 7 1 = if s.ddra.extractLsb' 7 1 = 0 then sdaOut s else s.ora.extractLsb' 7 1 := by
  unfold portARead
  split
  · refine BitVec.eq_of_getLsbD_eq fun i hi => ?_
    obtain rfl : i = 0 := by omega
    simp
  · rfl

/-- Settles O14: both names of port A answer `portARead`, whose eight bits the two lemmas above fix. -/
theorem portAReadOverlaysSda : Obligations.PortAReadOverlaysSda := by
  unfold Obligations.PortAReadOverlaysSda
  intro s
  exact ⟨portARead s, exec_rdOra s, exec_rdOra15 s,
    fun _ hi => getLsbD_portARead s hi, extractLsb'_portARead_seven s⟩

/-! ### The timer cells: what the shared operations leave of them -/

/-- The six timer cells, TMR4 at index 0. -/
def State.timers (s : State) : Fin 6 → Byte := ![s.tmr4, s.tmr5, s.tmr6, s.tmr7, s.tmr8, s.tmr9]

/-- The write cycle of the timer cell at an index. -/
def wrTimer (n : Fin 6) (v : Byte) : Instr :=
  match n with
  | 0 => .wrTmr4 v
  | 1 => .wrTmr5 v
  | 2 => .wrTmr6 v
  | 3 => .wrTmr7 v
  | 4 => .wrTmr8 v
  | 5 => .wrTmr9 v

theorem TargetEffect.timers_eq {s t : State} (h : TargetEffect s t) : t.timers = s.timers := by
  obtain ⟨_, _, _, rfl, -, -⟩ := h
  rfl

theorem timers_spiCsEval (s : State) : (spiCsEval s).timers = s.timers := by
  obtain ⟨_, h⟩ := spiCsEval_effect s
  rw [h]; rfl

theorem timers_spiSckEval (s : State) : (spiSckEval s).timers = s.timers := by
  obtain ⟨_, _, h⟩ := spiSckEval_effect s
  rw [h]; rfl

theorem timers_i2cStop (s : State) : (i2cStop s).timers = s.timers := by
  rcases i2cStop_effect s with ⟨-, h⟩ | ⟨-, u, hu, h⟩
  · rw [h]
  · rw [h]; exact hu.timers_eq

theorem timers_i2cRise (sda : Bit) (s : State) : (i2cRise sda s).timers = s.timers := by
  obtain ⟨_, _, _, _, _, _, _, u, hu, h, -⟩ := i2cRise_effect sda s
  rw [h]; exact hu.timers_eq

theorem timers_i2cFall (s : State) : (i2cFall s).timers = s.timers := by
  rw [i2cFall_effect]; rfl

theorem timers_i2cEval (s : State) : (i2cEval s).timers = s.timers := by
  obtain ⟨_, _, _, _, _, _, _, _, _, u, hu, h⟩ := i2cEval_effect s
  rw [h]; exact hu.timers_eq

theorem timers_writePortA (v : Byte) (s : State) : (writePortA v s).timers = s.timers :=
  (timers_i2cEval _).trans (timers_spiCsEval _)

/-! ### The timer cells: what each operation does to them -/

/-- A timer write sets its own cell and none of the other five. -/
theorem exec_wrTimer (m : Fin 6) (v : Byte) (s : State) :
    ∃ t, exec (wrTimer m v) s = .next t ∧ t.timers = Function.update s.timers m v := by
  fin_cases m
  all_goals
    refine ⟨_, rfl, ?_⟩
    funext n
    fin_cases n <;> rfl

/-- Of the operations that are no timer write, seven run a shared operation with a rule above; the other arms write out
the fields they replace, and no timer is among them. -/
theorem exec_timers_of_ne {i : Instr} {s t : State} (hi : ∀ m v, i ≠ wrTimer m v) (h : exec i s = .next t) :
    t.timers = s.timers := by
  cases i
  case wrTmr4 v => exact absurd rfl (hi 0 v)
  case wrTmr5 v => exact absurd rfl (hi 1 v)
  case wrTmr6 v => exact absurd rfl (hi 2 v)
  case wrTmr7 v => exact absurd rfl (hi 3 v)
  case wrTmr8 v => exact absurd rfl (hi 4 v)
  case wrTmr9 v => exact absurd rfl (hi 5 v)
  case wrOrb v => cases h; exact timers_spiSckEval _
  case wrOra v | wrOra15 v => cases h; exact timers_writePortA v s
  case wrDdra v => cases h; exact timers_i2cEval _
  case evStop => cases h; exact timers_i2cStop _
  case evRise sdaO sdaN => cases h; exact timers_i2cRise sdaN _
  case evFall sdaO sdaN => cases h; exact timers_i2cFall _
  all_goals cases h; rfl

/-- No operation but a cell's own write changes it (10_state.md R26). -/
theorem exec_timer_eq {i : Instr} {s t : State} (n : Fin 6) (h : exec i s = .next t) (hi : ∀ v, i ≠ wrTimer n v) :
    t.timers n = s.timers n := by
  by_cases hw : ∃ m v, i = wrTimer m v
  · obtain ⟨m, v, rfl⟩ := hw
    have hnm : n ≠ m := fun hnm => hi v (by rw [hnm])
    obtain ⟨u, hu, hcells⟩ := exec_wrTimer m v s
    obtain rfl : u = t := Host.Outcome.next.inj (hu.symm.trans h)
    rw [hcells, Function.update_of_ne hnm]
  · exact congrFun (exec_timers_of_ne (fun m v hmv => hw ⟨m, v, hmv⟩) h) n

/-- Settles O3: each read arm answers the stored byte, and the six frames are one lemma at the six indices. -/
theorem storageReadsReturnTheByte : Obligations.StorageReadsReturnTheByte := by
  unfold Obligations.StorageReadsReturnTheByte
  intro s
  refine ⟨rfl, rfl,               -- DDRB, DDRA
    rfl, rfl, rfl, rfl, rfl, rfl, -- TMR4 to TMR9
    rfl, rfl, rfl, fun i t h => ?_⟩
  exact ⟨exec_timer_eq 0 h, exec_timer_eq 1 h, exec_timer_eq 2 h,
    exec_timer_eq 3 h, exec_timer_eq 4 h, exec_timer_eq 5 h⟩

end Sys2Proof.Machine
end

section
/-! PROOFS, 40_register_file.md. No bit of ACR or PCR changes what another operation does (R112, R113): every shared
operation commutes with overwriting the two registers. -/

namespace Sys2Proof.Machine

/-- The state with other bytes in ACR and PCR. -/
def State.withControl (s : State) (a p : Byte) : State := { s with acr := a, pcr := p }

@[simp] theorem withControl_ora (s : State) (a p : Byte) : (s.withControl a p).ora = s.ora := rfl
@[simp] theorem withControl_spiSel (s : State) (a p : Byte) : (s.withControl a p).spiSel = s.spiSel := rfl
@[simp] theorem withControl_i2cState (s : State) (a p : Byte) : (s.withControl a p).i2cState = s.i2cState := rfl
@[simp] theorem withControl_i2cBitcnt (s : State) (a p : Byte) : (s.withControl a p).i2cBitcnt = s.i2cBitcnt := rfl
@[simp] theorem withControl_i2cTargets (s : State) (a p : Byte) : (s.withControl a p).i2cTargets = s.i2cTargets := rfl

@[simp] theorem spiTarget_withControl (s : State) (a p : Byte) : spiTarget (s.withControl a p) = spiTarget s := rfl
@[simp] theorem addressedTarget_withControl (s : State) (a p : Byte) :
    addressedTarget (s.withControl a p) = addressedTarget s := rfl
@[simp] theorem currentCode_withControl (s : State) (a p : Byte) :
    currentCode (s.withControl a p) = currentCode s := rfl

/-! ### The calls on targets -/

theorem callSpi_withControl (op : SpiOp) (s : State) (a p : Byte) :
    callSpi op (s.withControl a p) = (callSpi op s).withControl a p := by
  unfold callSpi
  rw [spiTarget_withControl]
  cases spiTarget s <;> rfl

theorem tcallStart_withControl (isRead : Bit) (s : State) (a p : Byte) :
    tcallStart isRead (s.withControl a p) = (tcallStart isRead s).map id (·.withControl a p) := by
  unfold tcallStart
  rw [addressedTarget_withControl]
  rcases addressedTarget s with _ | (_ | d) <;> rfl

theorem tcallStop_withControl (s : State) (a p : Byte) :
    tcallStop (s.withControl a p) = (tcallStop s).withControl a p := by
  unfold tcallStop
  rw [addressedTarget_withControl]
  rcases addressedTarget s with _ | (_ | d) <;> rfl

theorem tcallWrite_withControl (v : Byte) (s : State) (a p : Byte) :
    tcallWrite v (s.withControl a p) = (tcallWrite v s).map id (·.withControl a p) := by
  unfold tcallWrite
  rw [addressedTarget_withControl]
  rcases addressedTarget s with _ | (_ | d) <;> rfl

theorem tcallRead_withControl (willAck : Bool) (s : State) (a p : Byte) :
    tcallRead willAck (s.withControl a p) = (tcallRead willAck s).map id (·.withControl a p) := by
  unfold tcallRead
  rw [addressedTarget_withControl]
  rcases addressedTarget s with _ | (_ | d) <;> rfl

theorem tcallResetPointer_withControl (s : State) (a p : Byte) :
    tcallResetPointer (s.withControl a p) = (tcallResetPointer s).withControl a p := by
  unfold tcallResetPointer
  rw [addressedTarget_withControl]
  rcases addressedTarget s with _ | (_ | d)
  · rfl
  · rfl
  · dsimp only [targetResetPointer]
    split <;> rfl

/-! ### The SPI logic -/

theorem spiCsEval_withControl (s : State) (a p : Byte) :
    spiCsEval (s.withControl a p) = (spiCsEval s).withControl a p := by
  simp only [spiCsEval, withControl_ora, withControl_spiSel, callSpi_withControl]
  split
  · rfl
  · exact callSpi_withControl .select { callSpi .deselect s with spiSel := csDecode (csField s.ora) } a p

theorem spiRise_withControl (s : State) (a p : Byte) : spiRise (s.withControl a p) = (spiRise s).withControl a p := by
  unfold spiRise
  rw [spiTarget_withControl]
  cases spiTarget s <;> rfl

theorem spiSckEval_of_no_edge {s : State} (h : sckOf s.orb = s.spiLastSck) : spiSckEval s = s := if_pos h

theorem spiSckEval_of_rise {s : State} (h : sckOf s.orb ≠ s.spiLastSck) (high : sckOf s.orb = 1) :
    spiSckEval s = spiRise { s with spiLastSck := sckOf s.orb } := (if_neg h).trans (if_pos high)

theorem spiSckEval_of_fall {s : State} (h : sckOf s.orb ≠ s.spiLastSck) (low : sckOf s.orb ≠ 1) :
    spiSckEval s = spiFall { s with spiLastSck := sckOf s.orb } := (if_neg h).trans (if_neg low)

theorem spiSckEval_withControl (s : State) (a p : Byte) :
    spiSckEval (s.withControl a p) = (spiSckEval s).withControl a p := by
  by_cases same : sckOf s.orb = s.spiLastSck
  · rw [spiSckEval_of_no_edge same]
    exact spiSckEval_of_no_edge same
  · by_cases high : sckOf s.orb = 1
    · rw [spiSckEval_of_rise same high, spiSckEval_of_rise (s := s.withControl a p) same high]
      exact spiRise_withControl { s with spiLastSck := sckOf s.orb } a p
    · rw [spiSckEval_of_fall same high, spiSckEval_of_fall (s := s.withControl a p) same high]
      exact callSpi_withControl .onSckFalling { s with spiLastSck := sckOf s.orb } a p

/-! ### The framer -/

theorem i2cStop_withControl (s : State) (a p : Byte) : i2cStop (s.withControl a p) = (i2cStop s).withControl a p := by
  simp only [i2cStop, withControl_i2cBitcnt, tcallStop_withControl]
  split_ifs <;> rfl

theorem prefetch_withControl (s : State) (a p : Byte) :
    prefetch (s.withControl a p) = (prefetch s).withControl a p := by
  simp only [prefetch, tcallRead_withControl]
  rfl

theorem addressAcked_withControl (isRead ack : Bit) (s : State) (a p : Byte) :
    addressAcked isRead ack (s.withControl a p) = (addressAcked isRead ack s).withControl a p := by
  unfold addressAcked
  split_ifs
  · exact prefetch_withControl { s with i2cSlaveAck := ack, i2cState := .dataRead } a p
  · exact tcallResetPointer_withControl { s with i2cSlaveAck := ack, i2cState := .dataWrite } a p
  · rfl

theorem addrComplete_withControl (b : Byte) (s : State) (a p : Byte) :
    addrComplete b (s.withControl a p) = (addrComplete b s).withControl a p := by
  unfold addrComplete
  rw [withControl_i2cTargets]
  cases registryFind (addressOf b) s.i2cTargets with
  | none => rfl
  | some t =>
    have started :=
      tcallStart_withControl (rwOf b) { s with i2cRw := rwOf b, i2cTarget := some (addressOf b) } a p
    exact (congrArg (fun r => addressAcked (rwOf b) r.1 r.2) started).trans (addressAcked_withControl _ _ _ a p)

theorem byteComplete_withControl (b : Byte) (s : State) (a p : Byte) :
    byteComplete b (s.withControl a p) = (byteComplete b s).withControl a p := by
  unfold byteComplete
  rw [withControl_i2cState]
  cases s.i2cState with
  | idle => rfl
  | address => exact addrComplete_withControl b s a p
  | dataWrite =>
    simp only [writeComplete, tcallWrite_withControl]
    rfl
  | dataRead => rfl

theorem i2cRise_withControl (sda : Bit) (s : State) (a p : Byte) :
    i2cRise sda (s.withControl a p) = (i2cRise sda s).withControl a p := by
  simp only [i2cRise, withControl_i2cBitcnt, withControl_i2cState, prefetch_withControl]
  split_ifs
  · rfl
  · exact byteComplete_withControl (countBit sda s).i2cShift (countBit sda s) a p
  all_goals rfl

theorem i2cFall_withControl (s : State) (a p : Byte) : i2cFall (s.withControl a p) = (i2cFall s).withControl a p := by
  rw [i2cFall_effect, i2cFall_effect]
  rfl

theorem i2cEval_withControl (s : State) (a p : Byte) : i2cEval (s.withControl a p) = (i2cEval s).withControl a p := by
  unfold i2cEval
  rw [currentCode_withControl]
  cases eventClass (currentCode s) with
  | noChange => rfl
  | start => rfl
  | stop => exact i2cStop_withControl (s.withLevels (sclLevel s.ddra) (sdaLevel s.ddra)) a p
  | rise => exact i2cRise_withControl _ (s.withLevels (sclLevel s.ddra) (sdaLevel s.ddra)) a p
  | fall => exact i2cFall_withControl (s.withLevels (sclLevel s.ddra) (sdaLevel s.ddra)) a p
  | setup => rfl

theorem writePortA_withControl (v : Byte) (s : State) (a p : Byte) :
    writePortA v (s.withControl a p) = (writePortA v s).withControl a p :=
  (congrArg i2cEval (spiCsEval_withControl { s with ora := v } a p)).trans (i2cEval_withControl _ a p)

/-! ### The operations -/

/-- Writing the old ACR and PCR back undoes the overwriting. -/
theorem next_of_withControl {a p : Byte} {r t : State} (h : r = t.withControl a p) :
    ∃ u, (.next r : Host.Outcome State Fault Refusal) = .next u ∧ u.withControl t.acr t.pcr = t :=
  ⟨r, rfl, by rw [h]; rfl⟩

/-- From ACR and PCR overwritten, an operation that does not read them answers the same state but for the two. -/
theorem exec_withControl {i : Instr} {s t : State} (a p : Byte) (hacr : i ≠ .rdAcr) (hpcr : i ≠ .rdPcr)
    (h : exec i s = .next t) :
    ∃ u, exec i (s.withControl a p) = .next u ∧ u.withControl t.acr t.pcr = t := by
  cases i
  case rdAcr => exact absurd rfl hacr
  case rdPcr => exact absurd rfl hpcr
  case wrOrb v =>
    cases h
    exact next_of_withControl (spiSckEval_withControl { s with orb := maskedWrite s.orb s.ddrb v } a p)
  case wrOra v | wrOra15 v => cases h; exact next_of_withControl (writePortA_withControl v s a p)
  case wrDdra v => cases h; exact next_of_withControl (i2cEval_withControl { s with ddra := v } a p)
  case evStop => cases h; exact next_of_withControl (i2cStop_withControl (s.withLevels 1 1) a p)
  case evRise sdaO sdaN => cases h; exact next_of_withControl (i2cRise_withControl sdaN (s.withLevels 1 sdaN) a p)
  case evFall sdaO sdaN => cases h; exact next_of_withControl (i2cFall_withControl (s.withLevels 0 sdaN) a p)
  all_goals cases h; exact ⟨_, rfl, rfl⟩

/-- Settles O4: the two writes are record updates, and the non-interference is `exec_withControl`. -/
theorem controlRegistersAreInert : Obligations.ControlRegistersAreInert := by
  unfold Obligations.ControlRegistersAreInert
  intro v a p s
  exact ⟨exec_wrAcr v s, exec_wrPcr v s, fun _ _ hacr hpcr h => exec_withControl a p hacr hpcr h⟩

end Sys2Proof.Machine
end

section
/-! PROOFS, 41_spi_master.md. Only the writes of offsets 0, 1 and 15 move the SPI side (R149): every other operation,
the DDRA write and the line events among them, reaches targets through the framer, whose calls are all I2C calls. -/

namespace Sys2Proof.Machine

/-! ### The SPI side of a state -/

/-- What R149 protects: ORB, `spi_sel`, `spi_last_sck`, the SPI registry, and what each SPI target was called with. -/
structure SpiSide where
  orb : Byte
  spiSel : Option CsIndex
  spiLastSck : Bit
  spiTargets : Vector (Option SpiTarget) 6
  history : SpiTarget → List SpiOp

def State.spiSide (s : State) : SpiSide where
  orb := s.orb
  spiSel := s.spiSel
  spiLastSck := s.spiLastSck
  spiTargets := s.spiTargets
  history := fun x => spiHistory x s.calls

theorem spiSide_eq_iff (s t : State) : t.spiSide = s.spiSide ↔
    t.orb = s.orb ∧ t.spiSel = s.spiSel ∧ t.spiLastSck = s.spiLastSck ∧ t.spiTargets = s.spiTargets ∧
      ∀ x : SpiTarget, spiHistory x t.calls = spiHistory x s.calls := by
  simp [State.spiSide, funext_iff]

/-! ### The calls on I2C targets -/

theorem spiHistory_append_i2c (x : SpiTarget) (calls : List TargetCall) (t : I2cTarget) (op : I2cOp) :
    spiHistory x (calls ++ [.i2c t op]) = spiHistory x calls := by
  simp [spiHistory]

/-- A call on an I2C target enters no SPI target's history. -/
theorem spiSide_logCall_i2c (s : State) (t : I2cTarget) (op : I2cOp) :
    (s.logCall (.i2c t op)).spiSide = s.spiSide := by
  rw [spiSide_eq_iff]
  exact ⟨rfl, rfl, rfl, rfl, fun x => spiHistory_append_i2c x s.calls t op⟩

theorem spiSide_tcallStart (isRead : Bit) (s : State) : (tcallStart isRead s).2.spiSide = s.spiSide := by
  unfold tcallStart
  rcases addressedTarget s with _ | (_ | d)
  · rfl
  all_goals exact spiSide_logCall_i2c s _ (.start isRead)

theorem spiSide_tcallStop (s : State) : (tcallStop s).spiSide = s.spiSide := by
  unfold tcallStop
  rcases addressedTarget s with _ | (_ | d)
  · rfl
  all_goals exact spiSide_logCall_i2c s _ .stop

theorem spiSide_tcallWrite (v : Byte) (s : State) : (tcallWrite v s).2.spiSide = s.spiSide := by
  unfold tcallWrite
  rcases addressedTarget s with _ | (_ | d)
  · rfl
  all_goals exact spiSide_logCall_i2c s _ (.writeByte v)

theorem spiSide_tcallRead (willAck : Bool) (s : State) : (tcallRead willAck s).2.spiSide = s.spiSide := by
  unfold tcallRead
  rcases addressedTarget s with _ | (_ | d)
  · rfl
  all_goals exact spiSide_logCall_i2c s _ (.readByte willAck)

theorem spiSide_tcallResetPointer (s : State) : (tcallResetPointer s).spiSide = s.spiSide := by
  unfold tcallResetPointer
  rcases addressedTarget s with _ | (_ | d)
  · rfl
  · exact spiSide_logCall_i2c s .rtc .resetPointer
  · dsimp only [targetResetPointer]
    split
    · exact spiSide_logCall_i2c s (.device d) .resetPointer
    · rfl

/-! ### The framer -/

theorem spiSide_i2cStop (s : State) : (i2cStop s).spiSide = s.spiSide := by
  unfold i2cStop
  split
  · rfl
  · exact spiSide_tcallStop s

theorem spiSide_prefetch (s : State) : (prefetch s).spiSide = s.spiSide := spiSide_tcallRead true s

theorem spiSide_addressAcked (rw ack : Bit) (s : State) : (addressAcked rw ack s).spiSide = s.spiSide := by
  unfold addressAcked
  split_ifs
  · exact spiSide_prefetch { s with i2cSlaveAck := ack, i2cState := .dataRead }
  · exact spiSide_tcallResetPointer { s with i2cSlaveAck := ack, i2cState := .dataWrite }
  · rfl

theorem spiSide_addrComplete (b : Byte) (s : State) : (addrComplete b s).spiSide = s.spiSide := by
  unfold addrComplete
  split
  · rfl
  · have started := spiSide_tcallStart (rwOf b) { s with i2cRw := rwOf b, i2cTarget := some (addressOf b) }
    exact (spiSide_addressAcked _ _ _).trans started

theorem spiSide_byteComplete (b : Byte) (s : State) : (byteComplete b s).spiSide = s.spiSide := by
  unfold byteComplete
  cases s.i2cState with
  | idle => rfl
  | address => exact spiSide_addrComplete b s
  | dataWrite => exact spiSide_tcallWrite b s
  | dataRead => rfl

theorem spiSide_i2cRise (sda : Bit) (s : State) : (i2cRise sda s).spiSide = s.spiSide := by
  unfold i2cRise
  split_ifs
  · rfl
  · exact spiSide_byteComplete _ (countBit sda s)
  · exact spiSide_prefetch s
  all_goals rfl

theorem spiSide_i2cFall (s : State) : (i2cFall s).spiSide = s.spiSide := by
  rw [i2cFall_effect]
  rfl

theorem spiSide_i2cEval (s : State) : (i2cEval s).spiSide = s.spiSide := by
  unfold i2cEval
  cases eventClass (currentCode s) with
  | noChange => rfl
  | start => rfl
  | stop => exact spiSide_i2cStop (s.withLevels (sclLevel s.ddra) (sdaLevel s.ddra))
  | rise => exact spiSide_i2cRise _ (s.withLevels (sclLevel s.ddra) (sdaLevel s.ddra))
  | fall => exact spiSide_i2cFall (s.withLevels (sclLevel s.ddra) (sdaLevel s.ddra))
  | setup => rfl

/-! ### The operations -/

/-- An operation that writes neither port B nor port A keeps the SPI side; a line event is such an operation too. -/
theorem exec_spiSide_eq {i : Instr} {s t : State} (hi : ∀ v, i ≠ .wrOrb v ∧ i ≠ .wrOra v ∧ i ≠ .wrOra15 v)
    (h : exec i s = .next t) : t.spiSide = s.spiSide := by
  cases i
  case wrOrb v =>
    obtain ⟨horb, -, -⟩ := hi v
    exact absurd rfl horb
  case wrOra v =>
    obtain ⟨-, hora, -⟩ := hi v
    exact absurd rfl hora
  case wrOra15 v =>
    obtain ⟨-, -, hora15⟩ := hi v
    exact absurd rfl hora15
  case wrDdra v => cases h; exact spiSide_i2cEval { s with ddra := v }
  case evStop => cases h; exact spiSide_i2cStop (s.withLevels 1 1)
  case evRise sdaO sdaN => cases h; exact spiSide_i2cRise sdaN (s.withLevels 1 sdaN)
  case evFall sdaO sdaN => cases h; exact spiSide_i2cFall (s.withLevels 0 sdaN)
  all_goals cases h; rfl

/-- Settles O13: `exec_spiSide_eq` read field by field; it needs no premise that the operation is a bus cycle. -/
theorem spiMovesOnlyOnPortWrites : Obligations.SpiMovesOnlyOnPortWrites := by
  unfold Obligations.SpiMovesOnlyOnPortWrites
  intro i s t _ hi h
  exact (spiSide_eq_iff s t).mp (exec_spiSide_eq hi h)

end Sys2Proof.Machine
end

section
/-! PROOFS, 42_i2c_framer.md. What each class of line event does to the framer: START and SDA moving with SCL LOW (R165,
R166), STOP (R167, R168), the rise of SCL by state and counter (R169-R171, R176), the fall (R172). -/

namespace Sys2Proof.Machine

/-! ### The line events: which shared operation each of them runs -/

theorem exec_evStart (s : State) : exec .evStart s = .next (i2cStart (s.withLevels 1 0)) := rfl
theorem exec_evStop (s : State) : exec .evStop s = .next (i2cStop (s.withLevels 1 1)) := rfl
theorem exec_evRise (o d : Bit) (s : State) : exec (.evRise o d) s = .next (i2cRise d (s.withLevels 1 d)) := rfl
theorem exec_evFall (o d : Bit) (s : State) : exec (.evFall o d) s = .next (i2cFall (s.withLevels 0 d)) := rfl
theorem exec_evSetupSdaRise (s : State) : exec .evSetupSdaRise s = .next (s.withLevels 0 1) := rfl
theorem exec_evSetupSdaFall (s : State) : exec .evSetupSdaFall s = .next (s.withLevels 0 0) := rfl

/-! ### STOP -/

theorem i2cStop_of_eight {s : State} (h : s.i2cBitcnt = 8) : i2cStop s = s := if_pos h

theorem i2cStop_of_ne_eight {s : State} (h : s.i2cBitcnt ≠ 8) :
    i2cStop s = { tcallStop s with i2cTarget := none, i2cState := .idle } := if_neg h

/-! ### The rise of SCL, by counter -/

theorem i2cRise_of_lt_seven {s : State} (sda : Bit) (h : s.i2cBitcnt.val < 7) : i2cRise sda s = countBit sda s :=
  if_pos h

/-- The ACK clock (42_i2c_framer.md R170): only a master ACK in DATA_READ does more than count. -/
theorem i2cRise_of_eight {s : State} (sda : Bit) (h : s.i2cBitcnt = 8) :
    i2cRise sda s =
      if s.i2cState = .dataRead ∧ sda = 0 then { prefetch s with i2cBitcnt := 9 } else { s with i2cBitcnt := 9 } := by
  unfold i2cRise
  rw [if_neg (by rw [h]; decide), if_neg (by rw [h]; decide), if_pos h]

theorem i2cRise_of_nine {s : State} (sda : Bit) (h : s.i2cBitcnt = 9) : i2cRise sda s = s := by
  unfold i2cRise
  rw [if_neg (by rw [h]; decide), if_neg (by rw [h]; decide), if_neg (by rw [h]; decide)]

/-! ### The rise of SCL in DATA_READ -/

theorem countBit_of_dataRead {s : State} (sda : Bit) (h : s.i2cState = .dataRead) :
    countBit sda s = { s with i2cBitcnt := s.i2cBitcnt + 1 } := by
  unfold countBit
  rw [if_pos h]

theorem byteComplete_of_dataRead {s : State} (b : Byte) (h : s.i2cState = .dataRead) : byteComplete b s = s := by
  unfold byteComplete
  rw [h]

/-- All eight bits of a read byte are alike: the first seven only count, and the eighth's completion does nothing. -/
theorem i2cRise_of_dataRead {s : State} (sda : Bit) (hst : s.i2cState = .dataRead) (hcnt : s.i2cBitcnt.val < 8) :
    i2cRise sda s = { s with i2cBitcnt := s.i2cBitcnt + 1 } := by
  rw [← countBit_of_dataRead sda hst]
  obtain hlt | at_seven : s.i2cBitcnt.val < 7 ∨ s.i2cBitcnt = 7 := by omega
  · exact i2cRise_of_lt_seven sda hlt
  · rw [i2cRise_eighth sda at_seven]
    exact byteComplete_of_dataRead _ hst

/-! ### The shift register in DATA_READ -/

/-- The state with another byte in the shift register. -/
def State.withShift (s : State) (v : Byte) : State := { s with i2cShift := v }

@[simp] theorem withShift_i2cState (s : State) (v : Byte) : (s.withShift v).i2cState = s.i2cState := rfl

@[simp] theorem addressedTarget_withShift (s : State) (v : Byte) :
    addressedTarget (s.withShift v) = addressedTarget s := rfl

theorem tcallRead_withShift (willAck : Bool) (s : State) (v : Byte) :
    tcallRead willAck (s.withShift v) = (tcallRead willAck s).map id (·.withShift v) := by
  unfold tcallRead
  rw [addressedTarget_withShift]
  rcases addressedTarget s with _ | (_ | d) <;> rfl

theorem prefetch_withShift (s : State) (v : Byte) : prefetch (s.withShift v) = (prefetch s).withShift v := by
  unfold prefetch
  rw [tcallRead_withShift]
  rfl

/-- In DATA_READ a rise neither reads nor writes the shift register: it commutes with overwriting it. -/
theorem i2cRise_withShift {s : State} (sda : Bit) (v : Byte) (hst : s.i2cState = .dataRead) :
    i2cRise sda (s.withShift v) = (i2cRise sda s).withShift v := by
  obtain hbit | at_eight | at_nine : s.i2cBitcnt.val < 8 ∨ s.i2cBitcnt = 8 ∨ s.i2cBitcnt = 9 := by omega
  · rw [i2cRise_of_dataRead sda hst hbit]
    exact i2cRise_of_dataRead (s := s.withShift v) sda hst hbit
  · rw [i2cRise_of_eight sda at_eight, i2cRise_of_eight (s := s.withShift v) sda at_eight,
      withShift_i2cState, prefetch_withShift]
    split_ifs <;> rfl
  · rw [i2cRise_of_nine sda at_nine]
    exact i2cRise_of_nine (s := s.withShift v) sda at_nine

/-- The case of `i2cRise_withShift` that puts back the byte that was there. -/
theorem i2cShift_i2cRise_of_dataRead {s : State} (sda : Bit) (hst : s.i2cState = .dataRead) :
    (i2cRise sda s).i2cShift = s.i2cShift := by
  have restored : i2cRise sda s = (i2cRise sda s).withShift s.i2cShift := i2cRise_withShift sda s.i2cShift hst
  rw [restored]
  rfl

/-! ### The obligations -/

/-- Settles O20: a read byte's eighth bit counts like the others (`i2cRise_of_dataRead`), and a rise in DATA_READ
commutes with overwriting the shift register (`i2cRise_withShift`). -/
theorem eighthReadBitOnlyCounts : Obligations.EighthReadBitOnlyCounts := by
  unfold Obligations.EighthReadBitOnlyCounts
  intro o d s hst
  refine ⟨fun at_seven => ?_, fun v => ?_⟩
  · have hbit : s.i2cBitcnt.val < 8 := by rw [at_seven]; decide
    have counted : i2cRise d (s.withLevels 1 d) = { s.withLevels 1 d with i2cBitcnt := s.i2cBitcnt + 1 } :=
      i2cRise_of_dataRead d hst hbit
    rw [exec_evRise, counted, at_seven]
    rfl
  · exact ⟨i2cRise d (s.withLevels 1 d), exec_evRise o d s,
      i2cShift_i2cRise_of_dataRead (s := s.withLevels 1 d) d hst,
      congrArg Host.Outcome.next (i2cRise_withShift (s := s.withLevels 1 d) d v hst)⟩

/-- Settles O16: `i2cStart` reads neither the state nor the counter, so there is no case to split. -/
theorem startOpensAddressByte : Obligations.StartOpensAddressByte := by
  unfold Obligations.StartOpensAddressByte
  intro s
  exact exec_evStart s

/-- Settles O17: the two sides of `i2cStop`'s test on the counter. -/
theorem stopIgnoredAtCounterEight : Obligations.StopIgnoredAtCounterEight := by
  unfold Obligations.StopIgnoredAtCounterEight
  intro s
  refine ⟨fun at_eight => ?_, fun at_nine => ?_⟩
  · exact congrArg Host.Outcome.next (i2cStop_of_eight (s := s.withLevels 1 1) at_eight)
  · have taken : (s.withLevels 1 1).i2cBitcnt ≠ 8 := by
      rw [State.withLevels_i2cBitcnt, at_nine]
      decide
    refine ⟨_, exec_evStop s, ?_⟩
    rw [i2cStop_of_ne_eight taken]
    exact ⟨rfl, rfl⟩

/-- Settles O23: `i2cFall_effect` after the levels have moved. -/
theorem fallClearsCounterNine : Obligations.FallClearsCounterNine := by
  unfold Obligations.FallClearsCounterNine
  intro o d s
  rw [exec_evFall, i2cFall_effect]
  rfl

/-- Settles O24: the two setup codes run `State.withLevels` and nothing after it. -/
theorem setupOnlyMovesLevels : Obligations.SetupOnlyMovesLevels := by
  unfold Obligations.SetupOnlyMovesLevels
  intro s
  exact ⟨exec_evSetupSdaRise s, exec_evSetupSdaFall s⟩

end Sys2Proof.Machine
end

section
/-! PROOFS, 60_exceptions.md. Nothing the CPU can do raises an exception (R241); a configuration whose range meets
another device's has no initial state (R244). -/

namespace Sys2Proof.Machine

/-! ### Completion -/

/-- The meaning of an operation may branch over the state inside the next state, never over the kind of outcome: each of
the 42 arms is `.next` before anything of `s` is read. -/
theorem exec_completes (i : Instr) (s : State) : ∃ t, exec i s = .next t := by
  cases i
  all_goals exact ⟨_, rfl⟩

theorem busRead_of_lt {off : Nat} (h : off < 16) (s : State) :
    busRead off s = exec (readAt (BitVec.ofNat 4 off)) s := if_pos h

theorem busRead_of_ge {off : Nat} (h : 16 ≤ off) (s : State) : busRead off s = .next (s.answer 0xFF) :=
  if_neg (Nat.not_lt.mpr h)

theorem busWrite_of_lt {off : Nat} (h : off < 16) (v : Byte) (s : State) :
    busWrite off v s = exec (writeAt (BitVec.ofNat 4 off) v) s := if_pos h

theorem busWrite_of_ge {off : Nat} (h : 16 ≤ off) (v : Byte) (s : State) : busWrite off v s = .next s :=
  if_neg (Nat.not_lt.mpr h)

theorem busRead_completes (off : Nat) (s : State) : ∃ t, busRead off s = .next t := by
  obtain inside | outside := Nat.lt_or_ge off 16
  · rw [busRead_of_lt inside]
    exact exec_completes _ s
  · exact ⟨_, busRead_of_ge outside s⟩

theorem busWrite_completes (off : Nat) (v : Byte) (s : State) : ∃ t, busWrite off v s = .next t := by
  obtain inside | outside := Nat.lt_or_ge off 16
  · rw [busWrite_of_lt inside]
    exact exec_completes _ s
  · exact ⟨_, busWrite_of_ge outside v s⟩

/-- Settles O1: an access at an offset below 16 is an operation, and one from 16 up touches no register. -/
theorem everyOperationCompletes : Obligations.EveryOperationCompletes := by
  unfold Obligations.EveryOperationCompletes
  intro s
  exact ⟨fun i => exec_completes i s, fun off v => ⟨busRead_completes off s, busWrite_completes off v s⟩⟩

/-! ### Construction -/

/-- The range check fails exactly on an overlap: two intervals meet when each starts no later than the other ends. -/
theorem rangeFree_eq_false_iff (c : Config) (others : List (Nat × Nat)) :
    c.rangeFree others = false ↔ ∃ r ∈ others, r.1 ≤ c.base.toNat + 15 ∧ c.base.toNat ≤ r.2 := by
  simp [Config.rangeFree]

theorem construct_of_illFormed {c : Config} {i2c : List (Addr7 × I2cTarget)}
    (h : (c.wellFormed && registryWellFormed i2c) = false) (spi : Vector (Option SpiTarget) 6)
    (others : List (Nat × Nat)) : construct c i2c spi others = .refused .badConfiguration := if_pos h

theorem construct_of_overlap {c : Config} {i2c : List (Addr7 × I2cTarget)} {others : List (Nat × Nat)}
    (legal : (c.wellFormed && registryWellFormed i2c) = true) (overlap : c.rangeFree others = false)
    (spi : Vector (Option SpiTarget) 6) : construct c i2c spi others = .refused .overlapsAnotherDevice :=
  (if_neg (ne_false_of_eq_true legal)).trans (if_pos overlap)

/-- Settles O57: an overlap fails `rangeFree` (`rangeFree_eq_false_iff`), which is asked only after the configuration's
own limits; an illegal configuration is refused before, by the other name. -/
theorem overlappingConfigurationIsRefused : Obligations.OverlappingConfigurationIsRefused := by
  unfold Obligations.OverlappingConfigurationIsRefused
  intro c i2c spi others meets
  have overlap : c.rangeFree others = false := (rangeFree_eq_false_iff c others).mpr meets
  refine ⟨?_, fun hc hi2c => construct_of_overlap (by rw [hc, hi2c]; rfl) overlap spi⟩
  cases legal : c.wellFormed && registryWellFormed i2c with
  | false => exact ⟨_, construct_of_illFormed legal spi others⟩
  | true => exact ⟨_, construct_of_overlap legal overlap spi⟩

end Sys2Proof.Machine
end

section
/-! PROOFS, 30_encoding.md. No bit of an encoding is dropped: an operation comes back from its record (R81, R83, R85,
R86), and a word or code from its operation (R96). -/

namespace Sys2Proof

/-! ### From an operation to its record and back -/

/-- A line-transition code keeps its four levels. -/
theorem lineCode_fields (c : LineCode) : lineCode (lineSclOld c) (lineSdaOld c) (lineSclNew c) (lineSdaNew c) = c := by
  revert c; decide

theorem decodeLine_rise (o d : Bit) : decodeLine (lineCode 0 o 1 d) = .evRise o d := by
  revert o d; decide

theorem decodeLine_fall (o d : Bit) : decodeLine (lineCode 1 o 0 d) = .evFall o d := by
  revert o d; decide

theorem decodeCycle_write (off : BitVec 4) (v : Byte) : decodeCycle (cycleWord 1 off v) = decodeWrite off v :=
  (decodeCycle_cycleWord 1 off v).trans (if_pos rfl)

theorem decodeCycle_read (off : BitVec 4) (v : Byte) : decodeCycle (cycleWord 0 off v) = decodeRead off :=
  (decodeCycle_cycleWord 0 off v).trans (if_neg (by decide))

/-- A bus cycle comes back by its (W, off) pair, a line event by its code. -/
theorem decodeCoded_encodeCoded (i : Instr) : decodeCoded (encodeCoded i) = i := by
  cases i
  case evRise o d => exact decodeLine_rise o d
  case evFall o d => exact decodeLine_fall o d
  case evStart | evStop | evSetupSdaRise | evSetupSdaFall => rfl
  case evNochange0 | evNochange5 | evNochangeA | evNochangeF => rfl
  case wrOrb v | wrOra v | wrDdrb v | wrDdra v | wrTmr4 v | wrTmr5 v | wrTmr6 v | wrTmr7 v | wrTmr8 v | wrTmr9 v |
      wrSr v | wrAcr v | wrPcr v | wrIfr v | wrIer v | wrOra15 v => exact decodeCycle_write _ v
  all_goals exact decodeCycle_read _ 0

/-- Settles O51: the record gives the word back (`readRecord_recordOf`), the word the operation. -/
theorem decodeOfEncode : Obligations.DecodeOfEncode := by
  unfold Obligations.DecodeOfEncode
  intro i _
  unfold decode encode
  rw [readRecord_recordOf]
  exact congrArg Except.ok (decodeCoded_encodeCoded i)

/-! ### From a word or code to its operation and back -/

/-- The three fields cover the thirteen bits of a bus-cycle word. -/
theorem cycleWord_fields (w : CycleWord) : cycleWord (cycleW w) (cycleOff w) (cycleData w) = w := by
  refine BitVec.eq_of_getLsbD_eq fun i hi => ?_
  unfold cycleWord cycleW cycleOff cycleData
  obtain hdata | hoff | rfl : i < 8 ∨ (8 ≤ i ∧ i < 12) ∨ i = 12 := by omega
  · simp [hi, hdata, show i < 12 by omega]
  · simp [hi, hoff, show ¬ i < 8 by omega, show i - 8 < 4 by omega, show 8 + (i - 8) = i by omega]
  · simp

theorem encodeCoded_decodeWrite (off : BitVec 4) (v : Byte) :
    encodeCoded (decodeWrite off v) = .cycle (cycleWord 1 off v) := by
  obtain ⟨⟨n, hn⟩⟩ := off
  interval_cases n <;> rfl

theorem encodeCoded_decodeRead (off : BitVec 4) : encodeCoded (decodeRead off) = .cycle (cycleWord 0 off 0) := by
  obtain ⟨⟨n, hn⟩⟩ := off
  interval_cases n <;> rfl

theorem encodeCoded_decodeLine (c : LineCode) : encodeCoded (decodeLine c) = .line c := by
  revert c; decide

/-- Settles O52: each column of the offset map encodes back to the word built of its fields. -/
theorem encodeOfDecode : Obligations.EncodeOfDecode := by
  unfold Obligations.EncodeOfDecode
  refine ⟨fun w hw => ?_, fun w hr => ?_, encodeCoded_decodeLine⟩
  · have hword : w = cycleWord 1 (cycleOff w) (cycleData w) := by rw [← hw, cycleWord_fields]
    rw [decodeCycle, if_pos hw, encodeCoded_decodeWrite, ← hword]
  · rw [decodeCycle, if_neg (by rw [hr]; decide), encodeCoded_decodeRead]

/-- Settles O53: eight closed words, decoded by running the decoder. -/
theorem sampleWordsDecode : Obligations.SampleWordsDecode := by
  unfold Obligations.SampleWordsDecode
  exact ⟨rfl, rfl, rfl, rfl, rfl, rfl, rfl, rfl⟩

/-! ### The bytes on the I2C lines -/

open Machine

/-- A sample enters at the bottom and moves every other bit one place up. -/
theorem getLsbD_shiftIn (shift : Byte) (sda : Bit) {i : Nat} (hi : i < 8) :
    (shiftIn shift sda).getLsbD i = if i = 0 then sda.getLsbD 0 else shift.getLsbD (i - 1) := by
  cases i with
  | zero => simp [shiftIn]
  | succ i => simp [shiftIn, hi, BitVec.getLsbD_eq_getElem (show i < 8 by omega)]

/-- Bit `i` of the byte is the sample that `i` others follow. -/
theorem getLsbD_receivedByte (start : Byte) (bits : List Bit) {i : Nat} (hi : i < 8) (sampled : i < bits.length) :
    (receivedByte start bits).getLsbD i = (bits.reverse[i]'(by simpa using sampled)).getLsbD 0 := by
  induction bits using List.reverseRecOn generalizing i with
  | nil => exact absurd sampled (by simp)
  | append_singleton bits d ih =>
    have last : receivedByte start (bits ++ [d]) = shiftIn (receivedByte start bits) d := List.foldl_concat ..
    rw [last, getLsbD_shiftIn _ _ hi]
    cases i with
    | zero => simp
    | succ i =>
      have before : i < bits.length := by simpa using sampled
      simpa using ih (show i < 8 by omega) before

/-- Settles O28: `getLsbD_receivedByte` at each of the eight bits. -/
theorem eightSamplesMakeTheByteMsbFirst : Obligations.EightSamplesMakeTheByteMsbFirst := by
  unfold Obligations.EightSamplesMakeTheByteMsbFirst
  intro start b
  refine BitVec.eq_of_getLsbD_eq fun i hi => ?_
  rw [getLsbD_receivedByte start _ hi (by simpa using hi)]
  interval_cases i <;> simp

end Sys2Proof
end

section
/-! PROOFS, 40_register_file.md and 41_spi_master.md. The IER write and the IFR read (R115, R130), the cycles of port B
with the SCK edge (R101, R117, R145-R147), and the port-A write with the chip selects (R102, R116, R144). -/

namespace Sys2Proof.Machine

/-! ### The interrupt registers -/

theorem exec_wrIer (v : Byte) (s : State) : exec (.wrIer v) s = .next { s with ier := ierAfterWrite s.ier v } := rfl
theorem exec_rdIfr (s : State) : exec .rdIfr s = .next (s.answer (ifrRead s.ifr)) := rfl

/-- Data bit 7 chooses between setting and clearing; below it the data names the bits. -/
theorem getLsbD_ierAfterWrite (ier : BitVec 7) (v : Byte) {i : Nat} (hi : i < 7) :
    (ierAfterWrite ier v).getLsbD i =
      if v.getLsbD 7 then ier.getLsbD i || v.getLsbD i else ier.getLsbD i && !v.getLsbD i := by
  have sets_iff : v.extractLsb' 7 1 = 1 ↔ v.getLsbD 7 = true := by
    rw [← BitVec.toNat_inj, BitVec.getLsbD]
    simp [Nat.testBit, Nat.shiftRight_eq_div_pow]
  unfold ierAfterWrite
  by_cases sets : v.getLsbD 7 = true
  · rw [if_pos (sets_iff.mpr sets), if_pos sets]
    simp [hi]
  · rw [if_neg (mt sets_iff.mp sets), if_neg sets]
    simp [hi]

/-- Settles O6: the new IER is `ierAfterWrite` of the old one, read off bit by bit. -/
theorem ierWriteSetsOrClearsNamedBits : Obligations.IerWriteSetsOrClearsNamedBits := by
  unfold Obligations.IerWriteSetsOrClearsNamedBits
  intro v s
  exact ⟨ierAfterWrite s.ier v, exec_wrIer v s, fun _ hi => getLsbD_ierAfterWrite s.ier v hi⟩

/-- The seven stored bits do not reach bit 7, which is the any-pending bit. -/
theorem getLsbD_ifrRead_seven (ifr : BitVec 7) : (ifrRead ifr).getLsbD 7 = true ↔ ifr ≠ 0 := by
  unfold ifrRead ifrAny
  split_ifs with quiet
  · simp [quiet]
  · simpa using quiet

theorem getLsbD_ifrRead (ifr : BitVec 7) {i : Nat} (hi : i < 7) : (ifrRead ifr).getLsbD i = ifr.getLsbD i := by
  simp [ifrRead, hi, show i < 8 by omega]

/-- Settles O7: the byte is `ifrRead` of the stored bits. -/
theorem ifrReadShowsAnyPending : Obligations.IfrReadShowsAnyPending := by
  unfold Obligations.IfrReadShowsAnyPending
  intro s
  exact ⟨ifrRead s.ifr, exec_rdIfr s, getLsbD_ifrRead_seven s.ifr, fun _ hi => getLsbD_ifrRead s.ifr hi⟩

/-! ### The calls on SPI targets -/

/-- The selected target is the one registered at `spi_sel` (41_spi_master.md R142). -/
theorem spiTarget_eq (s : State) : spiTarget s = spiTargetAt s s.spiSel := by
  unfold spiTarget spiTargetAt
  cases s.spiSel <;> rfl

theorem callSpi_of_absent {s : State} (op : SpiOp) (h : spiTargetAt s s.spiSel = none) : callSpi op s = s := by
  unfold callSpi
  rw [spiTarget_eq, h]

theorem callSpi_of_present {s : State} {t : SpiTarget} (op : SpiOp) (h : spiTargetAt s s.spiSel = some t) :
    callSpi op s = s.logCall (.spi t op) := by
  unfold callSpi
  rw [spiTarget_eq, h]

/-- A call on the selected target is logged if there is one, and writes nothing else. -/
theorem callSpi_eq (op : SpiOp) (s : State) :
    callSpi op s = { s with calls := s.calls ++ spiCallOn (spiTargetAt s s.spiSel) op } := by
  cases present : spiTargetAt s s.spiSel with
  | none =>
    rw [callSpi_of_absent op present]
    simp [spiCallOn]
  | some t => exact callSpi_of_present op present

/-! ### Port B -/

theorem exec_wrOrb (v : Byte) (s : State) :
    exec (.wrOrb v) s = .next (spiSckEval { s with orb := maskedWrite s.orb s.ddrb v }) := rfl
theorem exec_rdOrb (s : State) : exec .rdOrb s = .next (s.answer (portBRead s)) := rfl

theorem spiRise_of_absent {s : State} (h : spiTargetAt s s.spiSel = none) : spiRise s = s := by
  unfold spiRise
  rw [spiTarget_eq, h]

theorem spiRise_of_present {s : State} {t : SpiTarget} (h : spiTargetAt s s.spiSel = some t) :
    spiRise s = { s with
      orb := withMiso s.orb (Config.spiTransferBit t (spiHistory t s.calls) (mosiOf s.orb))
      calls := s.calls ++ [.spi t (.transfer (mosiOf s.orb))] } := by
  unfold spiRise
  rw [spiTarget_eq, h]
  rfl

/-- An SCK edge with no target present only moves `spi_last_sck` (41_spi_master.md R146, R147; D16). -/
theorem spiSckEval_of_absent {s : State} (edge : sckOf s.orb ≠ s.spiLastSck)
    (absent : spiTargetAt s s.spiSel = none) : spiSckEval s = { s with spiLastSck := sckOf s.orb } := by
  by_cases high : sckOf s.orb = 1
  · rw [spiSckEval_of_rise edge high]
    exact spiRise_of_absent absent
  · rw [spiSckEval_of_fall edge high]
    exact callSpi_of_absent .onSckFalling absent

theorem spiSckEval_of_rise_present {s : State} {t : SpiTarget} (edge : sckOf s.orb ≠ s.spiLastSck)
    (high : sckOf s.orb = 1) (present : spiTargetAt s s.spiSel = some t) :
    spiSckEval s = { s with
      orb := withMiso s.orb (Config.spiTransferBit t (spiHistory t s.calls) (mosiOf s.orb))
      spiLastSck := 1
      calls := s.calls ++ [.spi t (.transfer (mosiOf s.orb))] } := by
  rw [spiSckEval_of_rise edge high, high]
  exact spiRise_of_present (s := { s with spiLastSck := 1 }) present

theorem spiSckEval_of_fall_present {s : State} {t : SpiTarget} (edge : sckOf s.orb ≠ s.spiLastSck)
    (low : sckOf s.orb ≠ 1) (present : spiTargetAt s s.spiSel = some t) :
    spiSckEval s = { s with spiLastSck := 0, calls := s.calls ++ [.spi t .onSckFalling] } := by
  have zero : sckOf s.orb = 0 := (bit_cases _).resolve_right low
  rw [spiSckEval_of_fall edge low, zero]
  exact callSpi_of_present (s := { s with spiLastSck := 0 }) .onSckFalling present

/-- Settles O9: the cases of the SCK evaluation, run on the byte just stored. -/
theorem portBWriteMasksAndEvaluatesSck : Obligations.PortBWriteMasksAndEvaluatesSck := by
  unfold Obligations.PortBWriteMasksAndEvaluatesSck
  intro v s
  refine (exec_wrOrb v s).trans (congrArg Host.Outcome.next ?_)
  by_cases same : sckOf (maskedWrite s.orb s.ddrb v) = s.spiLastSck
  · exact (spiSckEval_of_no_edge same).trans (if_pos same).symm
  refine Eq.trans ?_ (if_neg same).symm
  cases present : spiTargetAt s s.spiSel with
  | none => exact spiSckEval_of_absent same present
  | some t =>
    by_cases high : sckOf (maskedWrite s.orb s.ddrb v) = 1
    · refine Eq.trans ?_ (if_pos high).symm
      exact spiSckEval_of_rise_present (s := { s with orb := maskedWrite s.orb s.ddrb v }) same high present
    · refine Eq.trans ?_ (if_neg high).symm
      exact spiSckEval_of_fall_present (s := { s with orb := maskedWrite s.orb s.ddrb v }) same high present

/-- Settles O10: the branch of `portBRead` on the selected target. -/
theorem portBReadForcesMiso : Obligations.PortBReadForcesMiso := by
  unfold Obligations.PortBReadForcesMiso
  intro s
  rw [exec_rdOrb, portBRead, spiTarget_eq]
  cases spiTargetAt s s.spiSel <;> rfl

/-! ### Port A and the chip selects -/

/-- The chip-select evaluation with its calls: none when the selection stays, else the outgoing target's before the
incoming one's (41_spi_master.md R144). -/
theorem spiCsEval_eq (s : State) :
    spiCsEval s = { s with
      spiSel := csDecode (csField s.ora)
      calls := s.calls ++ (if csDecode (csField s.ora) = s.spiSel then [] else
        spiCallOn (spiTargetAt s s.spiSel) .deselect ++
        spiCallOn (spiTargetAt s (csDecode (csField s.ora))) .select) } := by
  unfold spiCsEval
  split_ifs with same
  · rw [same, List.append_nil]
  · rw [callSpi_eq, callSpi_eq, ← List.append_assoc]
    rfl

/-- A line that did not move is no event (42_i2c_framer.md R161). -/
theorem eventClass_of_still (scl sda : Bit) : eventClass (lineCode scl sda scl sda) = .noChange := by
  revert scl sda; decide

/-- With the last levels already the effective ones, the line evaluation does nothing (42_i2c_framer.md R163). -/
theorem i2cEval_of_levelsTracked {s : State} (h : s.levelsTracked) : i2cEval s = s := by
  obtain ⟨hscl, hsda⟩ := h
  unfold i2cEval currentCode
  rw [hscl, hsda, eventClass_of_still]

/-- With the levels tracked, a port-A write only stores and evaluates the chip selects. -/
theorem writePortA_of_levelsTracked (v : Byte) {s : State} (h : s.levelsTracked) :
    writePortA v s = spiCsEval { s with ora := v } := by
  unfold writePortA
  rw [spiCsEval_eq]
  exact i2cEval_of_levelsTracked h

/-- Settles O12: no line moved, so the write is the store and `spiCsEval_eq`; offset 15 is the same operation. -/
theorem portAWriteSelectsTarget : Obligations.PortAWriteSelectsTarget := by
  unfold Obligations.PortAWriteSelectsTarget
  intro v s tracked
  refine ⟨?_, exec_wrOra15_eq_wrOra v s⟩
  rw [exec_wrOra, writePortA_of_levelsTracked v tracked, spiCsEval_eq]
  rfl

end Sys2Proof.Machine
end

section
/-! PROOFS, 42_i2c_framer.md. The SDA read-back (R180), STOP with its call (R167), the rise of SCL that only counts or
clocks the ACK (R169-R171), the line evaluation as the operation of its code (R161), and what else moves the framer:
nothing (R163). -/

namespace Sys2Proof.Machine

/-! ### The SDA read-back -/

theorem extractLsb'_one (b : Byte) (n : Nat) : b.extractLsb' n 1 = if b.getLsbD n then 1 else 0 := by
  refine BitVec.eq_of_getLsbD_eq fun i hi => ?_
  obtain rfl : i = 0 := by omega
  cases h : b.getLsbD n <;> simp [h]

/-- While a read byte is on the line its bits are staged most significant first (R180, first case). -/
theorem sdaOut_of_staged {s : State} (hst : s.i2cState = .dataRead) (first : 1 ≤ s.i2cBitcnt.val)
    (last : s.i2cBitcnt.val ≤ 8) :
    sdaOut s = if s.i2cRdbyte.getLsbD (8 - s.i2cBitcnt.val) then 1 else 0 :=
  (if_pos ⟨hst, first, last⟩).trans (extractLsb'_one _ _)

/-- Outside the first case the slave's ACK shows from counter 8 on, in the active states (R180; D7). -/
theorem sdaOut_of_not_staged {s : State}
    (h : ¬(s.i2cState = .dataRead ∧ 1 ≤ s.i2cBitcnt.val ∧ s.i2cBitcnt.val ≤ 8)) :
    sdaOut s = if s.i2cState ≠ .idle ∧ 8 ≤ s.i2cBitcnt.val then s.i2cSlaveAck else 1 := if_neg h

/-- Settles O15: of the six clauses the second is the staged case; the others lie outside it. -/
theorem sdaReadBackFollowsStateAndCounter : Obligations.SdaReadBackFollowsStateAndCounter := by
  unfold Obligations.SdaReadBackFollowsStateAndCounter
  intro s
  refine ⟨fun hst => ?_, fun c hst hc first last => ?_, fun hst hc => ?_, fun hst hc => ?_, fun hst hc => ?_,
    fun hst hc => ?_⟩
  · rw [sdaOut_of_not_staged (by simp [hst]), if_neg (by simp [hst])]
  · subst hc
    exact sdaOut_of_staged hst first last
  · rw [sdaOut_of_not_staged (by simp [hc]), if_neg (by simp [hc])]
  · rw [sdaOut_of_not_staged (by simp [hc]), if_pos (by simp [hst, hc])]
  · rw [sdaOut_of_not_staged (by rcases hst with h | h <;> simp [h]), if_neg (by omega)]
  · rw [sdaOut_of_not_staged (by rcases hst with h | h <;> simp [h]),
      if_pos ⟨by rcases hst with h | h <;> simp [h], hc⟩]

/-! ### The calls on the addressed target -/

/-- `TCALL_STOP()`: the call is logged if there is a target, and the RTC ends its transaction. -/
theorem tcallStop_eq (s : State) :
    tcallStop s = { s with
      rtc := if addressedTarget s = some .rtc then rtcStop s.rtc else s.rtc
      calls := s.calls ++ i2cCallOn (addressedTarget s) .stop } := by
  unfold tcallStop
  rcases addressedTarget s with _ | (_ | x)
  · simp [i2cCallOn]
  · rfl
  · rfl

theorem prefetch_of_absent {s : State} (h : addressedTarget s = none) : prefetch s = { s with i2cRdbyte := 0xFF } := by
  unfold prefetch tcallRead
  rw [h]

theorem prefetch_of_rtc {s : State} (h : addressedTarget s = some .rtc) :
    prefetch s = { s with
      i2cRdbyte := rtcLoad s.rtc.ptr (wallClockNow s) s.rtc
      rtc := rtcAfterRead s.rtc
      wallDraws := drawsAfter s.rtc.ptr s.wallDraws
      calls := s.calls ++ [.i2c .rtc (.readByte true)] } := by
  unfold prefetch tcallRead
  rw [h]
  rfl

theorem prefetch_of_device {s : State} {x : I2cDevice} (h : addressedTarget s = some (.device x)) :
    prefetch s = { s with
      i2cRdbyte := Config.i2cReadValue x (i2cHistory (.device x) s.calls) true
      calls := s.calls ++ [.i2c (.device x) (.readByte true)] } := by
  unfold prefetch tcallRead
  rw [h]
  rfl

/-! ### STOP and the rise of SCL -/

/-- Settles O18: STOP away from counter 8 is the call and then NONE and IDLE. -/
theorem stopEndsTransaction : Obligations.StopEndsTransaction := by
  unfold Obligations.StopEndsTransaction
  intro s away
  rw [exec_evStop, i2cStop_of_ne_eight (s := s.withLevels 1 1) away, tcallStop_eq]
  rfl

theorem byteComplete_of_idle {s : State} (b : Byte) (h : s.i2cState = .idle) : byteComplete b s = s := by
  unfold byteComplete
  rw [h]

/-- Settles O19: below 7 a rise only counts the bit, and in IDLE the byte's completion does nothing (D10). -/
theorem riseShiftsAndCounts : Obligations.RiseShiftsAndCounts := by
  unfold Obligations.RiseShiftsAndCounts
  intro o d s hcnt
  have counted : i2cRise d (s.withLevels 1 d) = countBit d (s.withLevels 1 d) := by
    rcases hcnt with hlt | ⟨at_seven, hidle⟩
    · exact i2cRise_of_lt_seven d hlt
    · rw [i2cRise_eighth (s := s.withLevels 1 d) d at_seven]
      exact byteComplete_of_idle _ hidle
  rw [exec_evRise, counted]
  rfl

/-- Settles O21: only a master ACK in DATA_READ fetches, and what it fetches depends on the addressed target. -/
theorem ackClockFetchesOnMasterAck : Obligations.AckClockFetchesOnMasterAck := by
  unfold Obligations.AckClockFetchesOnMasterAck
  intro o d s at_eight
  refine (exec_evRise o d s).trans (congrArg Host.Outcome.next ?_)
  rw [i2cRise_of_eight (s := s.withLevels 1 d) d at_eight]
  by_cases fetches : s.i2cState = .dataRead ∧ d = 0
  · refine (if_pos fetches).trans (Eq.trans ?_ (if_pos fetches).symm)
    cases target : addressedTarget s with
    | none => rw [prefetch_of_absent (s := s.withLevels 1 d) target]; rfl
    | some t =>
      cases t with
      | rtc => rw [prefetch_of_rtc (s := s.withLevels 1 d) target]; rfl
      | device x => rw [prefetch_of_device (s := s.withLevels 1 d) target]; rfl
  · exact (if_neg fetches).trans (if_neg fetches).symm

/-- Settles O22: at counter 9 the rise leaves the state whose levels have moved. -/
theorem riseAtNineOnlyMovesLevels : Obligations.RiseAtNineOnlyMovesLevels := by
  unfold Obligations.RiseAtNineOnlyMovesLevels
  intro o d s at_nine
  rw [exec_evRise, i2cRise_of_nine (s := s.withLevels 1 d) d at_nine]
  rfl

/-- Settles O25: the four arms answer the state they are given. -/
theorem noChangeDoesNothing : Obligations.NoChangeDoesNothing := by
  unfold Obligations.NoChangeDoesNothing
  intro s
  exact ⟨rfl, rfl, rfl, rfl⟩

/-! ### The line evaluation is the operation of its code -/

/-- What the line evaluation does on a class of event, the new levels given (42_i2c_framer.md R161). -/
def runClass (k : EventClass) (scl sda : Bit) (s : State) : State :=
  match k with
  | .noChange => s
  | .start => i2cStart (s.withLevels scl sda)
  | .stop => i2cStop (s.withLevels scl sda)
  | .rise => i2cRise sda (s.withLevels scl sda)
  | .fall => i2cFall (s.withLevels scl sda)
  | .setup => s.withLevels scl sda

theorem i2cEval_eq_runClass (s : State) :
    i2cEval s = runClass (eventClass (currentCode s)) (sclLevel s.ddra) (sdaLevel s.ddra) s := by
  unfold i2cEval runClass
  cases eventClass (currentCode s) <;> rfl

theorem eventClass_rise (o d : Bit) : eventClass (lineCode 0 o 1 d) = .rise := by
  revert o d; decide

theorem eventClass_fall (o d : Bit) : eventClass (lineCode 1 o 0 d) = .fall := by
  revert o d; decide

/-- The table of the sixteen codes (30_encoding.md R86) and the words of the classes (R162) agree in what they do: an
SCL edge whatever SDA does, and with SCL still the four codes of each level. -/
theorem exec_decodeLine (sclO sdaO sclN sdaN : Bit) (s : State) :
    exec (decodeLine (lineCode sclO sdaO sclN sdaN)) s =
      .next (runClass (eventClass (lineCode sclO sdaO sclN sdaN)) sclN sdaN s) := by
  rcases bit_cases sclO with rfl | rfl <;> rcases bit_cases sclN with rfl | rfl
  · rcases bit_cases sdaO with rfl | rfl <;> rcases bit_cases sdaN with rfl | rfl <;> rfl
  · rw [decodeLine_rise, eventClass_rise]; rfl
  · rw [decodeLine_fall, eventClass_fall]; rfl
  · rcases bit_cases sdaO with rfl | rfl <;> rcases bit_cases sdaN with rfl | rfl <;> rfl

/-- The line evaluation of a state is the operation its transition code decodes to. -/
theorem exec_decodeLine_currentCode (s : State) : exec (decodeLine (currentCode s)) s = .next (i2cEval s) := by
  rw [currentCode, exec_decodeLine, i2cEval_eq_runClass, currentCode]

theorem exec_wrDdra (v : Byte) (s : State) : exec (.wrDdra v) s = .next (i2cEval { s with ddra := v }) := rfl

/-- Settles O26: the write is the line evaluation once the byte is stored, which is the operation of its code. -/
theorem ddraWriteRunsItsLineEvent : Obligations.DdraWriteRunsItsLineEvent := by
  unfold Obligations.DdraWriteRunsItsLineEvent
  intro v s
  rw [exec_wrDdra]
  exact (exec_decodeLine_currentCode { s with ddra := v }).symm

/-! ### Nothing else moves the framer -/

/-- What R163 protects: the framer, the RTC, the draws, and what each I2C target was called with. -/
structure I2cSide where
  state : I2cState
  lastScl : Bit
  lastSda : Bit
  bitcnt : Fin 10
  shift : Byte
  target : Option Addr7
  rw : Bit
  rdbyte : Byte
  slaveAck : Bit
  rtc : Rtc
  wallDraws : Nat
  history : I2cTarget → List I2cOp

def State.i2cSide (s : State) : I2cSide where
  state := s.i2cState
  lastScl := s.i2cLastScl
  lastSda := s.i2cLastSda
  bitcnt := s.i2cBitcnt
  shift := s.i2cShift
  target := s.i2cTarget
  rw := s.i2cRw
  rdbyte := s.i2cRdbyte
  slaveAck := s.i2cSlaveAck
  rtc := s.rtc
  wallDraws := s.wallDraws
  history := fun x => i2cHistory x s.calls

theorem i2cSide_eq_iff (s t : State) : t.i2cSide = s.i2cSide ↔
    t.i2cState = s.i2cState ∧ t.i2cLastScl = s.i2cLastScl ∧ t.i2cLastSda = s.i2cLastSda ∧
    t.i2cBitcnt = s.i2cBitcnt ∧ t.i2cShift = s.i2cShift ∧ t.i2cTarget = s.i2cTarget ∧ t.i2cRw = s.i2cRw ∧
    t.i2cRdbyte = s.i2cRdbyte ∧ t.i2cSlaveAck = s.i2cSlaveAck ∧ t.rtc = s.rtc ∧ t.wallDraws = s.wallDraws ∧
    ∀ x : I2cTarget, i2cHistory x t.calls = i2cHistory x s.calls := by
  simp [State.i2cSide, funext_iff]

/-- A call on an SPI target enters no I2C target's history. -/
theorem i2cSide_logCall_spi (s : State) (t : SpiTarget) (op : SpiOp) : (s.logCall (.spi t op)).i2cSide = s.i2cSide := by
  simp [State.i2cSide, i2cHistory]

theorem i2cSide_callSpi (op : SpiOp) (s : State) : (callSpi op s).i2cSide = s.i2cSide := by
  unfold callSpi
  cases spiTarget s with
  | none => rfl
  | some t => exact i2cSide_logCall_spi s t op

theorem i2cSide_spiCsEval (s : State) : (spiCsEval s).i2cSide = s.i2cSide := by
  unfold spiCsEval
  split_ifs
  · rfl
  · exact (i2cSide_callSpi .select _).trans (i2cSide_callSpi .deselect s)

theorem i2cSide_spiSckEval (s : State) : (spiSckEval s).i2cSide = s.i2cSide := by
  unfold spiSckEval
  split_ifs
  · rfl
  · unfold spiRise
    split
    · rfl
    · exact i2cSide_logCall_spi s _ _
  · exact i2cSide_callSpi .onSckFalling { s with spiLastSck := sckOf s.orb }

/-- Of the bus cycles three run a shared operation that could reach the lines; the others write their own register. -/
theorem exec_i2cSide_eq {i : Instr} {s t : State} (cycle : lineCodeOf i = none) (hi : ∀ v, i ≠ .wrDdra v)
    (tracked : s.levelsTracked) (h : exec i s = .next t) : t.i2cSide = s.i2cSide := by
  cases i
  case wrDdra v => exact absurd rfl (hi v)
  case wrOrb v => cases h; exact i2cSide_spiSckEval { s with orb := maskedWrite s.orb s.ddrb v }
  case wrOra v | wrOra15 v =>
    cases h
    rw [writePortA_of_levelsTracked v tracked]
    exact i2cSide_spiCsEval { s with ora := v }
  case evStart | evStop | evRise | evFall | evSetupSdaRise | evSetupSdaFall => cases cycle
  case evNochange0 | evNochange5 | evNochangeA | evNochangeF => cases cycle
  all_goals cases h; rfl

/-- Settles O27: `exec_i2cSide_eq` read field by field. -/
theorem framerMovesOnlyOnDdraWrites : Obligations.FramerMovesOnlyOnDdraWrites := by
  unfold Obligations.FramerMovesOnlyOnDdraWrites
  intro i s t cycle hi tracked h
  exact (i2cSide_eq_iff s t).mp (exec_i2cSide_eq cycle hi tracked h)

end Sys2Proof.Machine
end

section
/-! PROOFS, 42_i2c_framer.md. The eighth bit of an address byte (R174) and of a written byte (R175): the lookup, the
calls it leads to, and what the target's answer decides. -/

namespace Sys2Proof.Machine

/-! ### The fields of the completed byte -/

/-- The last sample is bit 0 of the byte, the read/write bit (30_encoding.md R87). -/
theorem rwOf_shiftIn (shift : Byte) (d : Bit) : rwOf (shiftIn shift d) = d := by
  refine BitVec.eq_of_getLsbD_eq fun i hi => ?_
  obtain rfl : i = 0 := by omega
  rw [rwOf, BitVec.getLsbD_extractLsb', getLsbD_shiftIn _ _ (by omega)]
  rfl

theorem shiftIn_zero (shift : Byte) : shiftIn shift 0 = shift <<< 1 := by
  simp [shiftIn]

/-! ### The rise that completes a byte -/

/-- The state in which a byte is completed: the levels moved and the eighth bit shifted in (R169). -/
def lastBitIn (d : Bit) (s : State) : State :=
  { s with i2cLastScl := 1, i2cLastSda := d, i2cBitcnt := 8, i2cShift := shiftIn s.i2cShift d }

/-- In a state that receives, the eighth rise completes the byte shifted in. -/
theorem exec_evRise_eighth {s : State} (o d : Bit) (hst : s.i2cState ≠ .dataRead) (at_seven : s.i2cBitcnt = 7) :
    exec (.evRise o d) s = .next (byteComplete (shiftIn s.i2cShift d) (lastBitIn d s)) := by
  have counted : countBit d (s.withLevels 1 d) = lastBitIn d s := by
    unfold countBit
    rw [State.withLevels_i2cState, if_neg hst, State.withLevels_i2cBitcnt, at_seven]
    rfl
  rw [exec_evRise, i2cRise_eighth (s := s.withLevels 1 d) d at_seven, counted]
  rfl

theorem exec_evRise_address {s : State} (o d : Bit) (hst : s.i2cState = .address) (at_seven : s.i2cBitcnt = 7) :
    exec (.evRise o d) s = .next (addrComplete (shiftIn s.i2cShift d) (lastBitIn d s)) := by
  rw [exec_evRise_eighth o d (by rw [hst]; decide) at_seven, byteComplete]
  rw [show (lastBitIn d s).i2cState = .address from hst]

theorem exec_evRise_dataWrite {s : State} (o d : Bit) (hst : s.i2cState = .dataWrite) (at_seven : s.i2cBitcnt = 7) :
    exec (.evRise o d) s = .next (writeComplete (shiftIn s.i2cShift d) (lastBitIn d s)) := by
  rw [exec_evRise_eighth o d (by rw [hst]; decide) at_seven, byteComplete]
  rw [show (lastBitIn d s).i2cState = .dataWrite from hst]

/-! ### The address byte -/

theorem addrComplete_missing {b : Byte} {s : State} (h : registryFind (addressOf b) s.i2cTargets = none) :
    addrComplete b s = { s with i2cRw := rwOf b, i2cTarget := none, i2cSlaveAck := 1 } := by
  unfold addrComplete
  rw [h]

/-- Settles O29: the lookup finds nothing, so no target is called. -/
theorem missingAddressIsNacked : Obligations.MissingAddressIsNacked := by
  unfold Obligations.MissingAddressIsNacked
  intro o d s hst at_seven missing
  have nacked := addrComplete_missing (b := shiftIn s.i2cShift d) (s := lastBitIn d s) missing
  rw [exec_evRise_address o d hst at_seven, nacked, rwOf_shiftIn]
  rfl

/-- The state in which a found target is started: its address and the direction latched (R174). -/
def addressLatched (d : Bit) (s : State) : State :=
  { lastBitIn d s with i2cRw := d, i2cTarget := some (addressOf (shiftIn s.i2cShift d)) }

/-- An address byte that finds a target starts it and goes on by its ack. -/
theorem exec_evRise_found {s : State} {t : I2cTarget} (o d : Bit) (hst : s.i2cState = .address)
    (at_seven : s.i2cBitcnt = 7) (found : registryFind (addressOf (shiftIn s.i2cShift d)) s.i2cTargets = some t) :
    exec (.evRise o d) s = .next
      (addressAcked d (targetStart t d (addressLatched d s)).1 (targetStart t d (addressLatched d s)).2) := by
  rw [exec_evRise_address o d hst at_seven, addrComplete_found (s := lastBitIn d s) found, rwOf_shiftIn]
  rfl

/-- The state a target's ack opens: its start made, the ack latched, the data state of the direction entered (R174). -/
def transferOpened (t : I2cTarget) (d : Bit) (s : State) : State :=
  { (targetStart t d (addressLatched d s)).2 with
    i2cSlaveAck := 0, i2cState := if d = 1 then .dataRead else .dataWrite }


theorem transferOpened_rtc (d : Bit) (s : State) : transferOpened .rtc d s = { s with
    i2cLastScl := 1
    i2cLastSda := d
    i2cBitcnt := 8
    i2cShift := shiftIn s.i2cShift d
    i2cRw := d
    i2cTarget := some (addressOf (shiftIn s.i2cShift d))
    i2cSlaveAck := 0
    i2cState := if d = 1 then .dataRead else .dataWrite
    rtc := rtcStart d s.rtc
    calls := s.calls ++ [.i2c .rtc (.start d)] } := by
  simp [transferOpened, targetStart, addressLatched, lastBitIn]

theorem transferOpened_device (x : I2cDevice) (d : Bit) (s : State) : transferOpened (.device x) d s = { s with
    i2cLastScl := 1
    i2cLastSda := d
    i2cBitcnt := 8
    i2cShift := shiftIn s.i2cShift d
    i2cRw := d
    i2cTarget := some (addressOf (shiftIn s.i2cShift d))
    i2cSlaveAck := 0
    i2cState := if d = 1 then .dataRead else .dataWrite
    calls := s.calls ++ [.i2c (.device x) (.start d)] } := by
  simp [transferOpened, targetStart, addressLatched, lastBitIn]

theorem addressedTarget_transferOpened {s : State} {t : I2cTarget} {d : Bit}
    (found : registryFind (addressOf (shiftIn s.i2cShift d)) s.i2cTargets = some t) :
    addressedTarget (transferOpened t d s) = some t := by
  cases t with
  | rtc =>
    rw [transferOpened_rtc]
    exact addressedTarget_of rfl found
  | device x =>
    rw [transferOpened_device]
    exact addressedTarget_of rfl found

section
variable {s : State} {t : I2cTarget} (o : Bit) (hst : s.i2cState = .address) (at_seven : s.i2cBitcnt = 7)
include hst at_seven

/-- A target that acks a read is asked for its first byte. -/
theorem exec_evRise_opens_read (found : registryFind (addressOf (shiftIn s.i2cShift 1)) s.i2cTargets = some t)
    (ack : (targetStart t 1 (addressLatched 1 s)).1 = 0) :
    exec (.evRise o 1) s = .next (prefetch (transferOpened t 1 s)) := by
  rw [exec_evRise_found o 1 hst at_seven found, ack]
  rfl

/-- A target that acks a write has its pointer reset, if it has one. -/
theorem exec_evRise_opens_write (found : registryFind (addressOf (shiftIn s.i2cShift 0)) s.i2cTargets = some t)
    (ack : (targetStart t 0 (addressLatched 0 s)).1 = 0) :
    exec (.evRise o 0) s = .next (targetResetPointer t (transferOpened t 0 s)) := by
  have reset : tcallResetPointer (transferOpened t 0 s) = targetResetPointer t (transferOpened t 0 s) := by
    unfold tcallResetPointer
    rw [addressedTarget_transferOpened found]
  rw [exec_evRise_found o 0 hst at_seven found, ack, ← reset]
  rfl

/-- A target that does not ack has been started, and stays addressed. -/
theorem exec_evRise_stays {d : Bit} (found : registryFind (addressOf (shiftIn s.i2cShift d)) s.i2cTargets = some t)
    (nack : (targetStart t d (addressLatched d s)).1 = 1) :
    exec (.evRise o d) s = .next { (targetStart t d (addressLatched d s)).2 with i2cSlaveAck := 1 } := by
  rw [exec_evRise_found o d hst at_seven found, nack]
  rfl

end

/-- Settles O30: the RTC acks its start, and a read byte is fetched at once. -/
theorem rtcReadAddressFetchesFirstByte : Obligations.RtcReadAddressFetchesFirstByte := by
  unfold Obligations.RtcReadAddressFetchesFirstByte
  intro o s hst at_seven found
  have target : addressedTarget (transferOpened .rtc 1 s) = some .rtc := addressedTarget_transferOpened found
  rw [exec_evRise_opens_read o hst at_seven found rfl, prefetch_of_rtc target, List.append_cons s.calls,
    transferOpened_rtc]
  rfl

/-- Settles O31: the RTC acks its start, and its pointer is reset for the pointer byte to come. -/
theorem rtcWriteAddressResetsPointer : Obligations.RtcWriteAddressResetsPointer := by
  unfold Obligations.RtcWriteAddressResetsPointer
  intro o s hst at_seven found
  rw [← shiftIn_zero] at found ⊢
  rw [exec_evRise_opens_write o hst at_seven found rfl, List.append_cons s.calls, transferOpened_rtc]
  rfl

/-- Whether a device's pointer is reset is free (log 7): the call is logged if it has one. -/
theorem targetResetPointer_device (x : I2cDevice) (s : State) :
    targetResetPointer (.device x) s =
      { s with calls := s.calls ++ if Config.i2cHasResetPointer x then [.i2c (.device x) .resetPointer] else [] } := by
  unfold targetResetPointer
  dsimp only
  split_ifs
  · rfl
  · rw [List.append_nil]

/-- A call on a target is the last of its history. -/
theorem i2cHistory_append_self (t : I2cTarget) (calls : List TargetCall) (op : I2cOp) :
    i2cHistory t (calls ++ [.i2c t op]) = i2cHistory t calls ++ [op] := by
  simp [i2cHistory]

/-- Settles O32: by the device's ack and the direction; a device asked for a byte has its start in its history. -/
theorem addressedDeviceOpensOrStays : Obligations.AddressedDeviceOpensOrStays := by
  unfold Obligations.AddressedDeviceOpensOrStays
  intro o d s x hst at_seven found
  dsimp only
  rcases bit_cases (Config.i2cStartAck x (i2cHistory (.device x) s.calls) d) with ack | nack
  · rw [ack, if_neg (by decide)]
    rcases bit_cases d with rfl | rfl
    · rw [exec_evRise_opens_write o hst at_seven found ack, if_neg (by decide), targetResetPointer_device,
        List.append_cons s.calls, transferOpened_device]
      rfl
    · have target : addressedTarget (transferOpened (.device x) 1 s) = some (.device x) :=
        addressedTarget_transferOpened found
      rw [exec_evRise_opens_read o hst at_seven found ack, prefetch_of_device target, if_pos rfl,
        List.append_cons s.calls, ← i2cHistory_append_self, transferOpened_device]
      rfl
  · rw [exec_evRise_stays o hst at_seven found nack, nack, if_pos rfl]
    rfl

/-! ### The written byte -/

/-- Settles O33: the call of the completed byte on whatever target is addressed. -/
theorem writtenByteGoesToTarget : Obligations.WrittenByteGoesToTarget := by
  unfold Obligations.WrittenByteGoesToTarget
  intro o d s hst at_seven
  refine (exec_evRise_dataWrite o d hst at_seven).trans (congrArg Host.Outcome.next ?_)
  unfold writeComplete tcallWrite
  rw [show addressedTarget (lastBitIn d s) = addressedTarget s from rfl]
  cases addressedTarget s with
  | none => rfl
  | some t =>
    cases t with
    | rtc => rfl
    | device x => rfl

end Sys2Proof.Machine
end

section
/-! PROOFS, 43_i2c_targets.md. The RTC target: its pointer and data bytes (R210, R211), its reads (R212-R214), BCD and
the day of the week (R215, R216), and the walk of the pointer (R219). -/

namespace Sys2Proof.Machine

/-! ### The byte written -/

theorem rtcWriteByte_pointer {r : Rtc} (c : Config) (v : Byte) (h : r.expectPtr = 1) :
    rtcWriteByte c v r = { r with ptr := rtcPointerOf c v, expectPtr := 0 } := if_pos h

theorem rtcWriteByte_data {r : Rtc} (c : Config) (v : Byte) (h : r.expectPtr = 0) :
    rtcWriteByte c v r =
      { r with reg := r.reg.set r.ptr (rtcStored c r.ptr r.reg[r.ptr] v), ptr := rtcNext r.ptr } :=
  if_neg (by rw [h]; decide)

/-- The one value of `RTC_PTR_OOR` reduces modulo the number of registers (D25). -/
theorem rtcPointerOf_val (c : Config) (v : Byte) : (rtcPointerOf c v).val = v.toNat % 19 := by
  unfold rtcPointerOf
  cases c.ptrOor
  rfl

theorem rtcNext_val (p : Fin 19) : (rtcNext p).val = (p.val + 1) % 19 := Fin.val_add p 1

/-- Settles O34: the pointer byte's branch of `write_byte`. -/
theorem rtcPointerByteIsReducedModulo19 : Obligations.RtcPointerByteIsReducedModulo19 := by
  unfold Obligations.RtcPointerByteIsReducedModulo19
  intro c v r expected
  exact ⟨rtcPointerOf c v, rtcWriteByte_pointer c v expected, rtcPointerOf_val c v⟩

theorem rtcStored_of_ne {r : Fin 19} (c : Config) (old v : Byte) (h : r.val ≠ 0x0F) : rtcStored c r old v = v :=
  if_neg (mt (congrArg Fin.val) h)

section
variable {c : Config} {r : Fin 19} (old v : Byte) (status : r.val = 0x0F)
include status

theorem rtcStored_replaceLow2 (hw : c.statusWrite = .replaceLow2) :
    rtcStored c r old v = (old &&& 0xFC#8) ||| (v &&& 0x03#8) := by
  unfold rtcStored
  rw [if_pos (Fin.ext status), hw]

theorem rtcStored_xorLow2 (hw : c.statusWrite = .xorLow2) : rtcStored c r old v = old ^^^ (v &&& 0x03#8) := by
  unfold rtcStored
  rw [if_pos (Fin.ext status), hw]

/-- Both masks leave bits 7..2 of the status register alone (D27). -/
theorem getLsbD_rtcStored_high {i : Nat} (hi : 2 ≤ i) : (rtcStored c r old v).getLsbD i = old.getLsbD i := by
  obtain inside | outside := Nat.lt_or_ge i 8
  swap
  · rw [BitVec.getLsbD_of_ge _ _ outside, BitVec.getLsbD_of_ge _ _ outside]
  have kept : (0xFC#8).getLsbD i = true := by
    revert i; decide
  have not_taken : (0x03#8).getLsbD i = false := by
    revert i; decide
  cases hw : c.statusWrite with
  | replaceLow2 =>
    rw [rtcStored_replaceLow2 old v status hw, BitVec.getLsbD_or, BitVec.getLsbD_and, BitVec.getLsbD_and,
      kept, not_taken]
    simp
  | xorLow2 =>
    rw [rtcStored_xorLow2 old v status hw, BitVec.getLsbD_xor, BitVec.getLsbD_and, not_taken]
    simp

theorem getLsbD_rtcStored_replaceLow2 (hw : c.statusWrite = .replaceLow2) {i : Nat} (hi : i < 2) :
    (rtcStored c r old v).getLsbD i = v.getLsbD i := by
  rw [rtcStored_replaceLow2 old v status hw]
  interval_cases i <;> simp

theorem getLsbD_rtcStored_xorLow2 (hw : c.statusWrite = .xorLow2) {i : Nat} (hi : i < 2) :
    (rtcStored c r old v).getLsbD i = (old.getLsbD i ^^ v.getLsbD i) := by
  rw [rtcStored_xorLow2 old v status hw]
  interval_cases i <;> simp

end

/-- Settles O35: the data byte's branch of `write_byte`, register by register and, at 0x0F, bit by bit. -/
theorem rtcDataByteStoredAtPointer : Obligations.RtcDataByteStoredAtPointer := by
  unfold Obligations.RtcDataByteStoredAtPointer
  intro c v r data
  have stored : (r.reg.set r.ptr (rtcStored c r.ptr r.reg[r.ptr] v))[r.ptr] = rtcStored c r.ptr r.reg[r.ptr] v :=
    Vector.getElem_set_self _
  refine ⟨_, _, rtcWriteByte_data c v data, rtcNext_val r.ptr, fun j hj => ?_, fun other => ?_, fun status => ?_⟩
  · exact Vector.getElem_set_ne _ _ (fun h => hj (Fin.ext h.symm))
  · exact stored.trans (rtcStored_of_ne c _ v other)
  · rw [stored]
    refine ⟨fun i hi => getLsbD_rtcStored_high _ v status hi, fun i hi => ?_⟩
    cases hw : c.statusWrite with
    | replaceLow2 => exact getLsbD_rtcStored_replaceLow2 _ v status hw hi
    | xorLow2 => exact getLsbD_rtcStored_xorLow2 _ v status hw hi

/-! ### The byte read -/

theorem rtcLoad_stored {p : Fin 19} (t : WallClock) (rtc : Rtc) (h : 7 ≤ p.val) : rtcLoad p t rtc = rtc.reg[p] :=
  if_neg (by omega)

theorem rtcLoad_time {p : Fin 19} (t : WallClock) (rtc : Rtc) (h : p.val ≤ 6) : rtcLoad p t rtc = timeReg p t :=
  if_pos h

/-- Settles O36: the state is the pointer's step, and the byte is `rtcLoad` at each of the eight cases. -/
theorem rtcReadReturnsRegisterAtPointer : Obligations.RtcReadReturnsRegisterAtPointer := by
  unfold Obligations.RtcReadReturnsRegisterAtPointer
  intro w s t
  have read_time {p : Fin 19} (hp : p.val ≤ 6) (at_p : s.rtc.ptr = p) : (targetRead .rtc w s).1 = timeReg p t := by
    subst at_p
    exact rtcLoad_time t s.rtc hp
  refine ⟨rfl, rtcNext_val s.rtc.ptr, fun stored => rtcLoad_stored t s.rtc stored, ?_⟩
  exact ⟨read_time (by decide), read_time (by decide), read_time (by decide), read_time (by decide),
    read_time (by decide), read_time (by decide), read_time (by decide)⟩

/-! ### BCD and the day of the week -/

/-- The two digits do not overlap: the units are below 16, where the tens begin. -/
theorem bcd_toNat {n : Nat} (h : n ≤ 99) : (bcd n).toNat = n / 10 * 16 + n % 10 := by
  have units : n % 10 < 2 ^ 4 := by omega
  rw [bcd, BitVec.toNat_ofNat, ← Nat.shiftLeft_add_eq_or_of_lt units, Nat.shiftLeft_eq]
  omega

/-- Settles O37: bits 7..4 are the quotient of `bcd_toNat` by 16, bits 3..0 the remainder. -/
theorem bcdHoldsTensAndUnits : Obligations.BcdHoldsTensAndUnits := by
  unfold Obligations.BcdHoldsTensAndUnits
  intro n h
  rw [BitVec.extractLsb'_toNat, BitVec.extractLsb'_toNat, bcd_toNat h, Nat.shiftRight_eq_div_pow,
    Nat.shiftRight_eq_div_pow]
  omega

/-- One digit is its own BCD. -/
theorem bcd_of_lt_ten {n : Nat} (h : n < 10) : bcd n = BitVec.ofNat 8 n := by
  unfold bcd
  rw [Nat.div_eq_of_lt h, Nat.mod_eq_of_lt h, Nat.zero_shiftLeft, Nat.zero_or]

theorem dow_bounds (t : WallClock) : 1 ≤ t.dow ∧ t.dow ≤ 7 :=
  ⟨Nat.le_add_left 1 _, t.dow0.isLt⟩

/-- Settles O38: the bounds are the type's, and 1..7 is one digit. -/
theorem dayOfWeekIsOneToSeven : Obligations.DayOfWeekIsOneToSeven := by
  unfold Obligations.DayOfWeekIsOneToSeven
  intro t
  obtain ⟨low, high⟩ := dow_bounds t
  exact ⟨rfl, (bcd_of_lt_ten (by omega)).symm, low, high⟩

/-! ### Sequences -/

/-- `k` reads move the pointer `k` registers on and touch nothing else. -/
theorem rtcAfterRead_iterate (k : Nat) (r : Rtc) :
    (rtcAfterRead^[k] r).ptr.val = (r.ptr.val + k) % 19 ∧ (rtcAfterRead^[k] r).reg = r.reg := by
  induction k with
  | zero => exact ⟨(Nat.mod_eq_of_lt r.ptr.isLt).symm, rfl⟩
  | succ k ih =>
    obtain ⟨hptr, hreg⟩ := ih
    rw [Function.iterate_succ_apply']
    refine ⟨?_, hreg⟩
    rw [rtcAfterRead, rtcNext_val, hptr, Nat.mod_add_mod]
    rfl

/-- Settles O39: the pointer byte sets the start of the walk of `rtcAfterRead_iterate`. -/
theorem readsWalkFromThePointerByte : Obligations.ReadsWalkFromThePointerByte := by
  unfold Obligations.ReadsWalkFromThePointerByte
  intro c p r k
  rw [rtcWriteByte_pointer c p (r := rtcResetPointer r) rfl]
  obtain ⟨hptr, hreg⟩ := rtcAfterRead_iterate k { rtcResetPointer r with ptr := rtcPointerOf c p, expectPtr := 0 }
  refine ⟨?_, hreg⟩
  rw [hptr, rtcPointerOf_val, Nat.mod_add_mod]

/-- Settles O40: a time register reads from the clock alone. -/
theorem timeRegistersIgnoreWrites : Obligations.TimeRegistersIgnoreWrites := by
  unfold Obligations.TimeRegistersIgnoreWrites
  intro c v rtc r t time
  rw [rtcLoad_time t _ time, rtcLoad_time t _ time]

end Sys2Proof.Machine
end

section
/-! PROOFS, 70_reset_and_hazards.md and 43_i2c_targets.md. The host reset from any state (R261, R262, R217) and after
construction (R263), the scratch and RTC values it leaves (10_state.md R30-R43), and the registries (R204). -/

namespace Sys2Proof.Machine

/-! ### The calls of a reset -/

theorem deselectAndReset_eq (slot : Option SpiTarget) (s : State) :
    deselectAndReset slot s = { s with calls := s.calls ++ (spiCallOn slot .deselect ++ spiCallOn slot .reset) } := by
  cases slot with
  | none => simp [deselectAndReset, spiCallOn]
  | some t => simp [deselectAndReset, spiCallOn, State.logCall]

theorem targetReset_eq (t : I2cTarget) (s : State) :
    targetReset t s = { s with
      rtc := if t = .rtc then rtcReset s.cfg s.rtc else s.rtc
      calls := s.calls ++ [.i2c t .reset] } := by
  cases t <;> rfl

theorem rtcReset_rtcReset (c : Config) (r : Rtc) : rtcReset c (rtcReset c r) = rtcReset c r := rfl

/-- Resetting every target of a list resets the RTC if it is among them; once is as good as often. -/
theorem resetEach_eq (es : List (Addr7 × I2cTarget)) (s : State) :
    resetEach es s = { s with
      rtc := if es.any (fun e => decide (e.2 = .rtc)) then rtcReset s.cfg s.rtc else s.rtc
      calls := s.calls ++ es.map fun e => .i2c e.2 .reset } := by
  induction es generalizing s with
  | nil => simp [resetEach]
  | cons e rest ih =>
    rw [resetEach, ih, targetReset_eq]
    by_cases he : e.2 = .rtc
    · simp [he, rtcReset_rtcReset]
    · simp [he]

/-- The six SPI slots by rising index, then the I2C registry as it is ordered (R262). -/
theorem resetTargets_eq (s : State) :
    resetTargets s = { s with
      rtc := if s.i2cTargets.any (fun e => decide (e.2 = .rtc)) then rtcReset s.cfg s.rtc else s.rtc
      calls := s.calls ++ resetCalls s } := by
  simp [resetTargets, deselectAndReset_eq, resetEach_eq, resetCalls, List.finRange]

/-- Settles O56: the calls of `resetTargets_eq`, then every field of the controller at its reset value. -/
theorem hostResetRestoresEveryField : Obligations.HostResetRestoresEveryField := by
  unfold Obligations.HostResetRestoresEveryField
  intro s
  change resetController (resetTargets s) = _
  rw [resetTargets_eq]
  rfl

/-! ### The reset state -/

theorem construct_of_legal {c : Config} {i2c : List (Addr7 × I2cTarget)} {others : List (Nat × Nat)}
    (legal : (c.wellFormed && registryWellFormed i2c) = true) (free : c.rangeFree others = true)
    (spi : Vector (Option SpiTarget) 6) : construct c i2c spi others = .next (runReset (State.initial c i2c spi)) :=
  (if_neg (ne_false_of_eq_true legal)).trans (if_neg (ne_false_of_eq_true free))

/-- Settles O58: the default configuration is legal, and `RESET()` on the constructed targets makes three calls. -/
theorem defaultConstructionIsReset : Obligations.DefaultConstructionIsReset := by
  unfold Obligations.DefaultConstructionIsReset
  rw [construct_of_legal (by decide) (by decide)]
  rfl

/-- Settles O55: the values are read off `State.initial`, and the register file of the RTC is nineteen zeros. -/
theorem resetScratchAndRtcValues : Obligations.ResetScratchAndRtcValues := by
  unfold Obligations.ResetScratchAndRtcValues
  exact ⟨rfl, rfl,                              -- the SPI scratch
    rfl, rfl, rfl, rfl, rfl, rfl, rfl, rfl, rfl, -- the framer
    rfl, rfl, rfl, rfl, rfl, fun j => Vector.getElem_replicate j.isLt⟩

/-! ### The I2C registry -/

theorem registerI2c_of_same {t : I2cTarget} {s : State}
    (h : registryFind (registrationAddress t s) s.i2cTargets = some t) : registerI2c t s = s := if_pos h

theorem registerI2c_of_other {t : I2cTarget} {s : State}
    (h : registryFind (registrationAddress t s) s.i2cTargets ≠ some t) :
    registerI2c t s = { s with i2cTargets := registryPut (registrationAddress t s) t s.i2cTargets } := if_neg h

/-- Registering a target that is already there finds it there as well. -/
theorem registryFind_registerI2c (t : I2cTarget) (b : Addr7) (s : State) :
    registryFind b (registerI2c t s).i2cTargets =
      if b = registrationAddress t s then some t else registryFind b s.i2cTargets := by
  by_cases same : registryFind (registrationAddress t s) s.i2cTargets = some t
  · rw [registerI2c_of_same same]
    split_ifs with hb
    · rw [hb, same]
    · rfl
  · rw [registerI2c_of_other same]
    exact registryFind_put _ _ _ _

theorem calls_registerI2c (t : I2cTarget) (s : State) : (registerI2c t s).calls = s.calls := by
  unfold registerI2c
  split_ifs <;> rfl

theorem unregisterI2c_of_absent {a : Addr7} {s : State} (h : registryFind a s.i2cTargets = none) :
    unregisterI2c a s = s := by
  unfold unregisterI2c
  rw [h]

theorem unregisterI2c_of_present {a : Addr7} {t : I2cTarget} {s : State}
    (h : registryFind a s.i2cTargets = some t) :
    unregisterI2c a s = { targetReset t s with i2cTargets := registryRemove a s.i2cTargets } := by
  unfold unregisterI2c
  rw [h]

theorem registryFind_unregisterI2c (a b : Addr7) (s : State) :
    registryFind b (unregisterI2c a s).i2cTargets = if b = a then none else registryFind b s.i2cTargets := by
  cases held : registryFind a s.i2cTargets with
  | none =>
    rw [unregisterI2c_of_absent held]
    split_ifs with hb
    · rw [hb, held]
    · rfl
  | some t =>
    rw [unregisterI2c_of_present held]
    exact registryFind_remove _ _ _

theorem calls_unregisterI2c (a : Addr7) (s : State) :
    (unregisterI2c a s).calls = s.calls ++ i2cCallOn (registryFind a s.i2cTargets) .reset := by
  cases held : registryFind a s.i2cTargets with
  | none =>
    rw [unregisterI2c_of_absent held]
    exact (List.append_nil _).symm
  | some t =>
    rw [unregisterI2c_of_present held, targetReset_eq]
    rfl

/-- Settles O59: the registry after each of the two actions, and the calls of each. -/
theorem hostChangesOneRegistryAddress : Obligations.HostChangesOneRegistryAddress := by
  unfold Obligations.HostChangesOneRegistryAddress
  intro t a b s
  exact ⟨registryFind_registerI2c t b s, registryFind_unregisterI2c a b s, calls_unregisterI2c a s,
    calls_registerI2c t s⟩

/-! ### The SPI registry -/

theorem getElem_set_slot (slots : Vector (Option SpiTarget) 6) (i j : CsIndex) (x : Option SpiTarget) :
    (slots.set i x)[j] = if j = i then x else slots[j] := by
  have same_index : i.val = j.val ↔ j = i := by rw [Fin.ext_iff, eq_comm]
  simp only [Fin.getElem_fin, Vector.getElem_set, same_index]

/-- Registering an SPI target that is already there is writing it again. -/
theorem registerSpi_eq (i : CsIndex) (t : SpiTarget) (s : State) :
    registerSpi i t s = { s with spiTargets := s.spiTargets.set i (some t) } := by
  unfold registerSpi
  split_ifs with same
  · have kept : s.spiTargets.set i (some t) = s.spiTargets := by
      rw [← same]
      exact Vector.set_getElem_self _
    rw [kept]
  · rfl

theorem unregisterSpi_eq (i : CsIndex) (s : State) :
    unregisterSpi i s = { s with
      spiTargets := s.spiTargets.set i none
      calls := s.calls ++ (spiCallOn s.spiTargets[i] .deselect ++ spiCallOn s.spiTargets[i] .reset) } := by
  rw [unregisterSpi, deselectAndReset_eq]

/-- Settles O60: both actions write one slot, and only the second calls its target. -/
theorem hostChangesOneSpiIndex : Obligations.HostChangesOneSpiIndex := by
  unfold Obligations.HostChangesOneSpiIndex
  intro i j t s
  rw [show hostAction (.registerSpi i t) s = _ from registerSpi_eq i t s,
    show hostAction (.unregisterSpi i) s = _ from unregisterSpi_eq i s]
  exact ⟨getElem_set_slot _ i j _, getElem_set_slot _ i j _, rfl, rfl, rfl⟩

end Sys2Proof.Machine
end

section
/-! PROOFS, 00_scope.md and 20_memory.md. One step by its pending input (R11), an access by its address or offset (R62,
40_register_file.md R133), and a line record as the DDRA write that drives its levels (30_encoding.md R85). -/

namespace Sys2Proof.Machine

/-! ### The pending input -/

theorem step_of_idle {s : State} (h : s.trace = []) : step s = .next s := by
  unfold step stepTrace
  rw [h]

theorem step_of_pending {s : State} {inp : Input} {rest : List Input} (h : s.trace = inp :: rest) :
    step s = runInput inp { s with trace := rest } := by
  unfold step stepTrace
  rw [h]

/-- Settles O47: the empty trace, and a host action at its head. -/
theorem stepIdlesOrRunsHostActions : Obligations.StepIdlesOrRunsHostActions := by
  unfold Obligations.StepIdlesOrRunsHostActions
  intro s
  exact ⟨step_of_idle, fun a rest h => step_of_pending h⟩

/-- Settles O44: from offset 16 up a read answers 0xFF and a write is dropped. -/
theorem outOfRangeOffsetsAreHarmless : Obligations.OutOfRangeOffsetsAreHarmless := by
  unfold Obligations.OutOfRangeOffsetsAreHarmless
  intro s off v rest outside
  exact ⟨fun h => (step_of_pending h).trans (busRead_of_ge outside _),
    fun h => (step_of_pending h).trans (busWrite_of_ge outside v _)⟩

/-! ### An access by address -/

theorem busRead_toNat (off : BitVec 4) (s : State) : busRead off.toNat s = exec (readAt off) s := by
  rw [busRead_of_lt off.isLt, BitVec.ofNat_toNat, BitVec.setWidth_eq]

theorem busWrite_toNat (off : BitVec 4) (v : Byte) (s : State) : busWrite off.toNat v s = exec (writeAt off v) s := by
  rw [busWrite_of_lt off.isLt, BitVec.ofNat_toNat, BitVec.setWidth_eq]

theorem inRange_iff (c : Config) (a : BusAddr) :
    inRange c a = true ↔ c.base.toNat ≤ a.toNat ∧ a.toNat ≤ c.base.toNat + 15 := by
  simp [inRange]

/-- The distance from `BASE` is below 16, so its low four bits are all of it. -/
theorem offsetOf_eq {c : Config} {a : BusAddr} {off : BitVec 4} (h : a.toNat = c.base.toNat + off.toNat) :
    offsetOf c a = off := by
  have distance : (a - c.base).toNat = off.toNat := by
    rw [BitVec.toNat_sub_of_le (BitVec.le_def.mpr (by omega))]
    omega
  refine BitVec.eq_of_toNat_eq ?_
  rw [offsetOf, BitVec.extractLsb'_toNat, distance, Nat.shiftRight_zero]
  exact Nat.mod_eq_of_lt off.isLt

/-- Settles O45: in range the address is `BASE` and the offset; outside it both accesses are refused. -/
theorem addressesInRangeReachTheirRegister : Obligations.AddressesInRangeReachTheirRegister := by
  unfold Obligations.AddressesInRangeReachTheirRegister
  intro s a v
  refine ⟨fun off h => ?_, fun outside => ?_⟩
  · have inside : inRange s.cfg a = true := (inRange_iff s.cfg a).mpr (by omega)
    rw [memRead, memWrite, if_pos inside, if_pos inside, offsetOf_eq h, busRead_toNat, busWrite_toNat]
    exact ⟨rfl, rfl⟩
  · have beyond : ¬ inRange s.cfg a = true := mt (inRange_iff s.cfg a).mp (by omega)
    exact ⟨if_neg beyond, if_neg beyond⟩

/-! ### A record -/

theorem runRecord_of_decoded {bytes : List Byte} {i : Instr} (h : decode bytes = .ok i) (s : State) :
    runRecord bytes s = runInstr i s := by
  unfold runRecord
  rw [h]

theorem runInstr_cycle {i : Instr} (h : lineCodeOf i = none) (s : State) : runInstr i s = exec i s := by
  unfold runInstr
  rw [h]

theorem runInstr_line {i : Instr} {c : LineCode} {s : State} (h : lineCodeOf i = some c)
    (old : lineSclOld c = s.i2cLastScl ∧ lineSdaOld c = s.i2cLastSda) :
    runInstr i s = exec i (driveLines (lineSclNew c) (lineSdaNew c) s) := by
  unfold runInstr
  rw [h]
  exact if_pos old

theorem runInstr_line_differs {i : Instr} {c : LineCode} {s : State} (h : lineCodeOf i = some c)
    (old : ¬(lineSclOld c = s.i2cLastScl ∧ lineSdaOld c = s.i2cLastSda)) :
    runInstr i s = .refused (.lineLevelsDiffer c) := by
  unfold runInstr
  rw [h]
  exact if_neg old

/-- Settles O46: the record is the pending input, and a line event runs with its lines driven. -/
theorem stepRunsTheDecodedRecord : Obligations.StepRunsTheDecodedRecord := by
  unfold Obligations.StepRunsTheDecodedRecord
  intro s bytes rest i pending decoded
  have runs : step s = runInstr i { s with trace := rest } :=
    (step_of_pending pending).trans (runRecord_of_decoded decoded _)
  exact ⟨fun cycle => runs.trans (runInstr_cycle cycle _),
    fun c line scl sda => runs.trans (runInstr_line line ⟨scl, sda⟩)⟩

/-! ### A line record is a DDRA write -/

theorem sclLevel_ddraFor (scl sda : Bit) (ddra : Byte) : sclLevel (ddraFor scl sda ddra) = scl := by
  refine BitVec.eq_of_getLsbD_eq fun i hi => ?_
  obtain rfl : i = 0 := by omega
  simp [sclLevel, ddraFor]

theorem sdaLevel_ddraFor (scl sda : Bit) (ddra : Byte) : sdaLevel (ddraFor scl sda ddra) = sda := by
  refine BitVec.eq_of_getLsbD_eq fun i hi => ?_
  obtain rfl : i = 0 := by omega
  simp [sdaLevel, ddraFor]

theorem eq_decodeLine_of_lineCodeOf {i : Instr} {c : LineCode} (h : lineCodeOf i = some c) : i = decodeLine c := by
  unfold lineCodeOf at h
  split at h
  · next c' encoded =>
    cases h
    rw [← decodeCoded_encodeCoded i, encoded]
    rfl
  · cases h

/-- A line event whose old levels are the last levels runs as the write of DDRA that drives its new levels (log 3). -/
theorem runInstr_line_eq_wrDdra {i : Instr} {c : LineCode} {s : State} (h : lineCodeOf i = some c)
    (old : lineSclOld c = s.i2cLastScl ∧ lineSdaOld c = s.i2cLastSda) :
    runInstr i s = exec (.wrDdra (ddraFor (lineSclNew c) (lineSdaNew c) s.ddra)) s := by
  obtain ⟨hscl, hsda⟩ := old
  have code : currentCode (driveLines (lineSclNew c) (lineSdaNew c) s) = c := by
    unfold currentCode driveLines
    rw [sclLevel_ddraFor, sdaLevel_ddraFor]
    dsimp only
    rw [← hscl, ← hsda, lineCode_fields]
  have runs := exec_decodeLine_currentCode (driveLines (lineSclNew c) (lineSdaNew c) s)
  rw [code] at runs
  rw [runInstr_line h ⟨hscl, hsda⟩, eq_decodeLine_of_lineCodeOf h]
  exact runs

/-! ### Everything one input can do -/

theorem lineCodeOf_readAt (off : BitVec 4) : lineCodeOf (readAt off) = none := by
  rw [readAt, decodeCycle_read, lineCodeOf, encodeCoded_decodeRead]

theorem lineCodeOf_writeAt (off : BitVec 4) (v : Byte) : lineCodeOf (writeAt off v) = none := by
  rw [writeAt, decodeCycle_write, lineCodeOf, encodeCoded_decodeWrite]

/-- What one input can do when it answers a next state: a bus cycle, an access that reaches no register, or a host
action. A line record is among the bus cycles, as the DDRA write it stands for. -/
inductive InputEffect (s : State) : State → Prop
  | cycle (i : Instr) (t : State) : lineCodeOf i = none → exec i s = .next t → InputEffect s t
  | answered (v : Byte) : InputEffect s (s.answer v)
  | dropped : InputEffect s s
  | host (a : HostAction) : InputEffect s (hostAction a s)

theorem runRecord_effect {bytes : List Byte} {s t : State} (h : runRecord bytes s = .next t) : InputEffect s t := by
  unfold runRecord at h
  split at h
  · next i _ =>
    cases code : lineCodeOf i with
    | none => exact .cycle i t code ((runInstr_cycle code s).symm.trans h)
    | some c =>
      by_cases old : lineSclOld c = s.i2cLastScl ∧ lineSdaOld c = s.i2cLastSda
      · exact .cycle _ t rfl ((runInstr_line_eq_wrDdra code old).symm.trans h)
      · rw [runInstr_line_differs code old] at h
        cases h
  · cases h

theorem busRead_effect {off : Nat} {s t : State} (h : busRead off s = .next t) : InputEffect s t := by
  obtain inside | outside := Nat.lt_or_ge off 16
  · exact .cycle _ t (lineCodeOf_readAt _) ((busRead_of_lt inside s).symm.trans h)
  · cases (busRead_of_ge outside s).symm.trans h
    exact .answered _

theorem busWrite_effect {off : Nat} {v : Byte} {s t : State} (h : busWrite off v s = .next t) : InputEffect s t := by
  obtain inside | outside := Nat.lt_or_ge off 16
  · exact .cycle _ t (lineCodeOf_writeAt _ v) ((busWrite_of_lt inside v s).symm.trans h)
  · cases (busWrite_of_ge outside v s).symm.trans h
    exact .dropped

theorem runInput_effect {inp : Input} {s t : State} (h : runInput inp s = .next t) : InputEffect s t := by
  cases inp with
  | record bytes => exact runRecord_effect h
  | memRead addr =>
    unfold runInput memRead at h
    dsimp only at h
    split_ifs at h
    exact busRead_effect h
  | memWrite addr v =>
    unfold runInput memWrite at h
    dsimp only at h
    split_ifs at h
    exact busWrite_effect h
  | offRead off => exact busRead_effect h
  | offWrite off v => exact busWrite_effect h
  | host a =>
    cases h
    exact .host a

/-- Everything one step can do: nothing with nothing pending, else what the oldest input does once it is consumed. -/
theorem step_cases {s t : State} (h : step s = .next t) :
    (s.trace = [] ∧ t = s) ∨ ∃ inp rest, s.trace = inp :: rest ∧ InputEffect { s with trace := rest } t := by
  cases pending : s.trace with
  | nil =>
    cases (step_of_idle pending).symm.trans h
    exact .inl ⟨rfl, rfl⟩
  | cons inp rest => exact .inr ⟨inp, rest, rfl, runInput_effect ((step_of_pending pending).symm.trans h)⟩

end Sys2Proof.Machine
end

section
/-! PROOFS, 10_state.md. What no step changes (R45, 43_i2c_targets.md R218) and the invariant of the block (R41), each
by the three things an input can do: a bus cycle, an access that reaches no register, a host action. -/

namespace Sys2Proof.Machine

/-! ### What the shared operations leave alone -/

/-- The fields that no step ever changes. -/
structure Constants where
  cfg : Config
  viaIrq : Bit
  rtcAddr : Addr7
  rtcOffsetMs : Int

def State.constants (s : State) : Constants where
  cfg := s.cfg
  viaIrq := s.viaIrq
  rtcAddr := s.rtc.addr
  rtcOffsetMs := s.rtc.offsetMs

/-- The constants, and what else of the invariant no call on a target and no edge of a line changes. -/
structure Backdrop where
  constants : Constants
  ifr : BitVec 7
  ddra : Byte
  i2cTargets : List (Addr7 × I2cTarget)

def State.backdrop (s : State) : Backdrop where
  constants := s.constants
  ifr := s.ifr
  ddra := s.ddra
  i2cTargets := s.i2cTargets

theorem constants_eq_iff (s t : State) : t.constants = s.constants ↔
    t.cfg = s.cfg ∧ t.viaIrq = s.viaIrq ∧ t.rtc.addr = s.rtc.addr ∧ t.rtc.offsetMs = s.rtc.offsetMs := by
  simp [State.constants]

theorem backdrop_eq_iff (s t : State) : t.backdrop = s.backdrop ↔
    t.constants = s.constants ∧ t.ifr = s.ifr ∧ t.ddra = s.ddra ∧ t.i2cTargets = s.i2cTargets := by
  simp [State.backdrop]

theorem TargetEffect.backdrop_eq {s t : State} (h : TargetEffect s t) : t.backdrop = s.backdrop := by
  obtain ⟨r, c, d, rfl, ha, ho⟩ := h
  simp [State.backdrop, State.constants, ha, ho]

theorem TargetEffect.constants_eq {s t : State} (h : TargetEffect s t) : t.constants = s.constants :=
  congrArg Backdrop.constants h.backdrop_eq

theorem backdrop_spiCsEval (s : State) : (spiCsEval s).backdrop = s.backdrop := by
  rw [spiCsEval_eq]
  rfl

theorem backdrop_spiSckEval (s : State) : (spiSckEval s).backdrop = s.backdrop := by
  obtain ⟨_, _, h⟩ := spiSckEval_effect s
  rw [h]
  rfl

theorem backdrop_i2cEval (s : State) : (i2cEval s).backdrop = s.backdrop := by
  obtain ⟨_, _, _, _, _, _, _, _, _, u, hu, h⟩ := i2cEval_effect s
  rw [h]
  exact hu.backdrop_eq

theorem backdrop_writePortA (v : Byte) (s : State) : (writePortA v s).backdrop = s.backdrop :=
  (backdrop_i2cEval _).trans (backdrop_spiCsEval { s with ora := v })

/-- Of the bus cycles only the writes of IFR and DDRA touch the backdrop. -/
theorem exec_backdrop_eq {i : Instr} {s t : State} (cycle : lineCodeOf i = none) (hifr : ∀ v, i ≠ .wrIfr v)
    (hddra : ∀ v, i ≠ .wrDdra v) (h : exec i s = .next t) : t.backdrop = s.backdrop := by
  cases i
  case wrIfr v => exact absurd rfl (hifr v)
  case wrDdra v => exact absurd rfl (hddra v)
  case wrOrb v => cases h; exact backdrop_spiSckEval { s with orb := maskedWrite s.orb s.ddrb v }
  case wrOra v | wrOra15 v => cases h; exact backdrop_writePortA v s
  case evStart | evStop | evRise | evFall | evSetupSdaRise | evSetupSdaFall => cases cycle
  case evNochange0 | evNochange5 | evNochangeA | evNochangeF => cases cycle
  all_goals cases h; rfl

/-! ### The constants -/

theorem exec_constants_eq {i : Instr} {s t : State} (cycle : lineCodeOf i = none) (h : exec i s = .next t) :
    t.constants = s.constants := by
  by_cases hifr : ∃ v, i = .wrIfr v
  · obtain ⟨v, rfl⟩ := hifr
    cases h
    rfl
  by_cases hddra : ∃ v, i = .wrDdra v
  · obtain ⟨v, rfl⟩ := hddra
    cases h
    exact congrArg Backdrop.constants (backdrop_i2cEval { s with ddra := v })
  exact congrArg Backdrop.constants (exec_backdrop_eq cycle (not_exists.mp hifr) (not_exists.mp hddra) h)

theorem constants_unregisterI2c (a : Addr7) (s : State) : (unregisterI2c a s).constants = s.constants := by
  unfold unregisterI2c
  split
  · rfl
  · next t _ => exact (targetReset_effect t s).constants_eq

theorem hostAction_constants_eq (a : HostAction) (s : State) : (hostAction a s).constants = s.constants := by
  cases a with
  | reset => exact (resetTargets_effect s).constants_eq
  | registerI2c t =>
    change (registerI2c t s).constants = s.constants
    unfold registerI2c
    split_ifs <;> rfl
  | unregisterI2c a => exact constants_unregisterI2c a s
  | registerSpi i t =>
    change (registerSpi i t s).constants = s.constants
    rw [registerSpi_eq]
    rfl
  | unregisterSpi i => exact (deselectAndReset_effect s.spiTargets[i] s).constants_eq

theorem InputEffect.constants_eq {s t : State} (h : InputEffect s t) : t.constants = s.constants := by
  cases h with
  | cycle i t cycle h => exact exec_constants_eq cycle h
  | answered v => rfl
  | dropped => rfl
  | host a => exact hostAction_constants_eq a s

/-- Settles O48: `InputEffect.constants_eq` read field by field. -/
theorem noStepChangesTheConstants : Obligations.NoStepChangesTheConstants := by
  unfold Obligations.NoStepChangesTheConstants
  intro s t h
  refine (constants_eq_iff s t).mp ?_
  obtain ⟨-, rfl⟩ | ⟨inp, rest, -, effect⟩ := step_cases h
  · rfl
  · exact effect.constants_eq

/-! ### The line evaluation keeps the framer's part of the invariant -/

/-- The last levels. -/
def State.levels (s : State) : Bit × Bit := (s.i2cLastScl, s.i2cLastSda)

theorem TargetEffect.levels_eq {s t : State} (h : TargetEffect s t) : t.levels = s.levels := by
  obtain ⟨_, _, _, rfl, -, -⟩ := h
  rfl

theorem levels_i2cStop (s : State) : (i2cStop s).levels = s.levels := by
  obtain ⟨-, h⟩ | ⟨-, u, hu, h⟩ := i2cStop_effect s
  · rw [h]
  · rw [h]
    exact hu.levels_eq

theorem levels_i2cRise (sda : Bit) (s : State) : (i2cRise sda s).levels = s.levels := by
  obtain ⟨_, _, _, _, _, _, _, u, hu, h, -⟩ := i2cRise_effect sda s
  rw [h]
  exact hu.levels_eq

theorem levels_i2cFall (s : State) : (i2cFall s).levels = s.levels := by
  rw [i2cFall_effect]
  rfl

/-- Every event but no change leaves the new levels as the last ones. -/
theorem levels_runClass {k : EventClass} (scl sda : Bit) (s : State) (hk : k ≠ .noChange) :
    (runClass k scl sda s).levels = (scl, sda) := by
  cases k with
  | noChange => exact absurd rfl hk
  | start => rfl
  | stop => exact levels_i2cStop (s.withLevels scl sda)
  | rise => exact levels_i2cRise sda (s.withLevels scl sda)
  | fall => exact levels_i2cFall (s.withLevels scl sda)
  | setup => rfl

theorem levels_of_noChange (a b c d : Bit) : eventClass (lineCode a b c d) = .noChange → (a, b) = (c, d) := by
  revert a b c d; decide

theorem scl_low_of_setup (a b c d : Bit) : eventClass (lineCode a b c d) = .setup → a = 0 := by
  revert a b c d; decide

theorem scl_high_of_start_stop_rise (a b c d : Bit) :
    eventClass (lineCode a b c d) = .start ∨ eventClass (lineCode a b c d) = .stop ∨
      eventClass (lineCode a b c d) = .rise → c = 1 := by
  revert a b c d; decide

/-- After the line evaluation the last levels are the effective ones, whatever they were (42_i2c_framer.md R161). -/
theorem levels_i2cEval (s : State) : (i2cEval s).levels = (sclLevel s.ddra, sdaLevel s.ddra) := by
  rw [i2cEval_eq_runClass]
  by_cases still : eventClass (currentCode s) = .noChange
  · rw [still]
    exact levels_of_noChange _ _ _ _ still
  · exact levels_runClass _ _ s still

theorem i2cEval_levelsTracked (s : State) : (i2cEval s).levelsTracked := by
  obtain ⟨-, -, hddra, -⟩ := (backdrop_eq_iff _ _).mp (backdrop_i2cEval s)
  rw [State.levelsTracked, hddra]
  exact Prod.mk.inj (levels_i2cEval s)

/-- Counter 9 survives no fall, and SDA moves with SCL LOW only when the counter is not 9; after every other event SCL
is HIGH (10_state.md R41.2). -/
theorem i2cEval_nineOnlyWhileHigh {s : State} (h : s.nineOnlyWhileHigh) : (i2cEval s).nineOnlyWhileHigh := by
  intro nine
  have last : (i2cEval s).i2cLastScl = sclLevel s.ddra := (Prod.mk.inj (levels_i2cEval s)).1
  rw [i2cEval_eq_runClass] at nine
  cases k : eventClass (currentCode s) with
  | noChange =>
    rw [k] at nine
    rw [i2cEval_eq_runClass, k]
    exact h nine
  | start => exact last.trans (scl_high_of_start_stop_rise _ _ _ _ (.inl k))
  | stop => exact last.trans (scl_high_of_start_stop_rise _ _ _ _ (.inr (.inl k)))
  | rise => exact last.trans (scl_high_of_start_stop_rise _ _ _ _ (.inr (.inr k)))
  | fall =>
    rw [k, runClass, i2cFall_effect] at nine
    dsimp only at nine
    split_ifs at nine with was
    · cases nine
    · exact absurd nine was
  | setup =>
    rw [k] at nine
    have low : s.i2cLastScl = 0 := scl_low_of_setup _ _ _ _ k
    rw [h nine] at low
    cases low

theorem i2cStop_addressed {s : State} (h : AddressedOk s) : AddressedOk (i2cStop s) := by
  obtain ⟨-, kept⟩ | ⟨-, u, -, stopped⟩ := i2cStop_effect s
  · rwa [kept]
  · rw [stopped]
    rintro (idle | idle) <;> cases idle

theorem i2cEval_dataStateAddressed {s : State} (h : s.dataStateAddressed) : (i2cEval s).dataStateAddressed := by
  rw [i2cEval_eq_runClass]
  cases eventClass (currentCode s) with
  | noChange => exact h
  | start => rintro (opened | opened) <;> cases opened
  | stop => exact i2cStop_addressed (s := s.withLevels _ _) h
  | rise =>
    obtain ⟨_, _, _, _, _, _, _, _, -, -, addressed⟩ :=
      i2cRise_effect (sdaLevel s.ddra) (s.withLevels (sclLevel s.ddra) (sdaLevel s.ddra))
    exact addressed h
  | fall =>
    rw [runClass, i2cFall_effect]
    exact h
  | setup => exact h

/-! ### The invariant -/

/-- The invariant reads nothing but the backdrop and the framer. -/
theorem inv_of_same {s t : State} (backdrop : t.backdrop = s.backdrop) (side : t.i2cSide = s.i2cSide) (h : s.Inv) :
    t.Inv := by
  obtain ⟨constants, hifr, hddra, htargets⟩ := (backdrop_eq_iff s t).mp backdrop
  obtain ⟨hcfg, hirq, haddr, hoffset⟩ := (constants_eq_iff s t).mp constants
  obtain ⟨hstate, hscl, hsda, hcnt, -, htarget, -⟩ := (i2cSide_eq_iff s t).mp side
  simpa only [State.Inv, State.levelsTracked, State.nineOnlyWhileHigh, State.dataStateAddressed, State.interruptsQuiet,
    State.rtcConstants, State.setupLegal, hifr, hddra, htargets, hcfg, hirq, haddr, hoffset, hstate, hscl, hsda, hcnt,
    htarget] using h

theorem i2cEval_inv {s : State} (nine : s.nineOnlyWhileHigh) (addressed : s.dataStateAddressed)
    (quiet : s.interruptsQuiet) (rtc : s.rtcConstants) (legal : s.setupLegal) : (i2cEval s).Inv := by
  obtain ⟨constants, hifr, -, htargets⟩ := (backdrop_eq_iff _ _).mp (backdrop_i2cEval s)
  obtain ⟨hcfg, hirq, haddr, hoffset⟩ := (constants_eq_iff _ _).mp constants
  refine ⟨i2cEval_levelsTracked s, i2cEval_nineOnlyWhileHigh nine, i2cEval_dataStateAddressed addressed, ?_, ?_, ?_⟩
  · rwa [State.interruptsQuiet, hifr, hirq]
  · rwa [State.rtcConstants, haddr, hoffset]
  · rwa [State.setupLegal, hcfg, htargets]

/-- Clearing bits of a register that is 0 leaves it 0. -/
theorem ifrAfterWrite_zero (v : Byte) : ifrAfterWrite 0 v = 0 := BitVec.zero_and

theorem exec_inv {i : Instr} {s t : State} (cycle : lineCodeOf i = none) (hs : s.Inv) (h : exec i s = .next t) :
    t.Inv := by
  have ⟨tracked, nine, addressed, quiet, rtc, legal⟩ := hs
  by_cases hddra : ∃ v, i = .wrDdra v
  · obtain ⟨v, rfl⟩ := hddra
    cases h
    exact i2cEval_inv (s := { s with ddra := v }) nine addressed quiet rtc legal
  by_cases hifr : ∃ v, i = .wrIfr v
  · obtain ⟨v, rfl⟩ := hifr
    cases h
    obtain ⟨clear, irq⟩ := quiet
    refine ⟨tracked, nine, addressed, ⟨?_, irq⟩, rtc, legal⟩
    change ifrAfterWrite s.ifr v = 0
    rw [clear, ifrAfterWrite_zero]
  exact inv_of_same (exec_backdrop_eq cycle (not_exists.mp hifr) (not_exists.mp hddra) h)
    (exec_i2cSide_eq cycle (not_exists.mp hddra) tracked h) hs

/-- The RTC's address is 0x68, so every target registers under its own address. -/
theorem address_eq_registrationAddress (t : I2cTarget) {s : State} (h : s.rtcConstants) :
    t.address = registrationAddress t s := by
  obtain ⟨haddr, -⟩ := h
  cases t with
  | rtc => exact haddr.symm
  | device d => rfl

/-- A call on a target keeps the invariant: it writes no field of the framer. -/
theorem TargetEffect.inv {s t : State} (h : TargetEffect s t) (hs : s.Inv) : t.Inv := by
  obtain ⟨r, c, d, rfl, ha, ho⟩ := h
  obtain ⟨tracked, nine, addressed, quiet, ⟨haddr, hoffset⟩, legal⟩ := hs
  exact ⟨tracked, nine, addressed, quiet, ⟨ha.trans haddr, ho.trans hoffset⟩, legal⟩

/-- A registry may be replaced by another canonical one. -/
theorem inv_withRegistry {s : State} {l : List (Addr7 × I2cTarget)} (hs : s.Inv) (hl : registryWellFormed l = true) :
    State.Inv { s with i2cTargets := l } := by
  obtain ⟨tracked, nine, addressed, quiet, rtc, ⟨hcfg, -⟩⟩ := hs
  exact ⟨tracked, nine, addressed, quiet, rtc, ⟨hcfg, hl⟩⟩

/-- The reset values meet the framer's part by themselves; the set-up is the one before. -/
theorem resetController_inv {s : State} (h : s.Inv) : (resetController s).Inv := by
  obtain ⟨-, -, -, ⟨-, irq⟩, rtc, legal⟩ := h
  have scl : (1 : Bit) = sclLevel 0x00 := by decide
  have sda : (1 : Bit) = sdaLevel 0x00 := by decide
  refine ⟨⟨scl, sda⟩, fun nine => ?_, fun data => ?_, ⟨rfl, irq⟩, rtc, legal⟩
  · cases nine
  · obtain write | read := data
    · cases write
    · cases read

theorem hostAction_inv (a : HostAction) {s : State} (h : s.Inv) : (hostAction a s).Inv := by
  have ⟨_, _, _, _, rtc, ⟨_, canonical⟩⟩ := h
  cases a with
  | reset => exact resetController_inv ((resetTargets_effect s).inv h)
  | registerI2c t =>
    change (registerI2c t s).Inv
    unfold registerI2c
    split_ifs
    · exact h
    · exact inv_withRegistry h (registryPut_wellFormed (address_eq_registrationAddress t rtc) _ canonical)
  | unregisterI2c a =>
    change (unregisterI2c a s).Inv
    unfold unregisterI2c
    split
    · exact h
    · next t _ => exact inv_withRegistry ((targetReset_effect t s).inv h) (registryRemove_wellFormed a _ canonical)
  | registerSpi i t =>
    change (registerSpi i t s).Inv
    rw [registerSpi_eq]
    exact h
  | unregisterSpi i => exact (deselectAndReset_effect s.spiTargets[i] s).inv h

theorem InputEffect.inv {s t : State} (effect : InputEffect s t) (h : s.Inv) : t.Inv := by
  cases effect with
  | cycle i t cycle hexec => exact exec_inv cycle h hexec
  | answered v => exact h
  | dropped => exact h
  | host a => exact hostAction_inv a h

/-- Settles O49: `step_cases`, each case of which keeps the invariant; the trace is no part of it. -/
theorem invariantKeptByEveryStep : Obligations.InvariantKeptByEveryStep := by
  unfold Obligations.InvariantKeptByEveryStep
  intro s t hs h
  obtain ⟨-, rfl⟩ | ⟨inp, rest, -, effect⟩ := step_cases h
  · exact hs
  · exact effect.inv hs

/-- Settles O50: every part is decided on the reset state. -/
theorem invariantHoldsAtReset : Obligations.InvariantHoldsAtReset := by
  unfold Obligations.InvariantHoldsAtReset
  decide

end Sys2Proof.Machine
end

section
/-! PROOFS, 20_memory.md. Accesses made twice: a read repeats (R68), and so does a write (R69) but for the MISO bit that
a port-B write may overwrite (log 16). -/

namespace Sys2Proof.Machine

/-! ### Reads -/

theorem readAt_eq (off : BitVec 4) : readAt off = decodeRead off := decodeCycle_read off 0

theorem writeAt_eq (off : BitVec 4) (v : Byte) : writeAt off v = decodeWrite off v := decodeCycle_write off v

/-- Every read cycle answers a byte that does not depend on the byte answered before. -/
theorem exec_readAt (off : BitVec 4) : ∃ value : State → Byte,
    (∀ s, exec (readAt off) s = .next (s.answer (value s))) ∧ ∀ s v, value (s.answer v) = value s := by
  rw [readAt_eq]
  unfold decodeRead
  split
  all_goals exact ⟨_, fun _ => rfl, fun _ _ => rfl⟩

/-- Settles O41: the answer is the only change, and the second read does not see it. -/
theorem readsChangeNothingAndRepeat : Obligations.ReadsChangeNothingAndRepeat := by
  unfold Obligations.ReadsChangeNothingAndRepeat
  intro off s
  obtain ⟨value, answers, blind⟩ := exec_readAt off
  refine ⟨value s, answers s, ?_⟩
  have second := answers (s.answer (value s))
  rw [blind] at second
  exact second

/-! ### Writes that repeat exactly -/

/-- The second of two equal operations changes nothing. -/
def Repeats (i : Instr) : Prop := ∀ s t, exec i s = .next t → exec i t = .next t

theorem ddra_i2cEval (s : State) : (i2cEval s).ddra = s.ddra := congrArg Backdrop.ddra (backdrop_i2cEval s)

theorem repeats_wrDdra (v : Byte) : Repeats (.wrDdra v) := by
  have settled {t : State} (stored : t.ddra = v) (tracked : t.levelsTracked) : exec (.wrDdra v) t = .next t := by
    subst stored
    exact congrArg Host.Outcome.next (i2cEval_of_levelsTracked tracked)
  rintro s t ⟨rfl⟩
  exact settled (ddra_i2cEval { s with ddra := v }) (i2cEval_levelsTracked _)

/-- A port-A write leaves its byte stored and the selection decoded from it. -/
theorem writePortA_selected (v : Byte) (s : State) :
    (writePortA v s).ora = v ∧ (writePortA v s).spiSel = csDecode (csField v) := by
  obtain ⟨_, _, _, _, _, _, _, _, _, u, hu, h⟩ := i2cEval_effect (spiCsEval { s with ora := v })
  obtain ⟨_, _, _, rfl, -, -⟩ := hu
  rw [writePortA, h, spiCsEval_eq]
  exact ⟨rfl, rfl⟩

/-- The second write finds the selection taken and the lines where they are. -/
theorem writePortA_repeat (v : Byte) (s : State) : writePortA v (writePortA v s) = writePortA v s := by
  have settled {t : State} (stored : t.ora = v) (selected : t.spiSel = csDecode (csField v))
      (tracked : t.levelsTracked) : writePortA v t = t := by
    subst stored
    exact (writePortA_of_levelsTracked t.ora tracked).trans (if_pos selected.symm)
  obtain ⟨stored, selected⟩ := writePortA_selected v s
  exact settled stored selected (i2cEval_levelsTracked _)

theorem repeats_wrIfr (v : Byte) : Repeats (.wrIfr v) := by
  rintro s t ⟨rfl⟩
  rw [exec_wrIfr]
  simp [ifrAfterWrite, BitVec.and_assoc]

theorem ierAfterWrite_repeat (ier : BitVec 7) (v : Byte) :
    ierAfterWrite (ierAfterWrite ier v) v = ierAfterWrite ier v := by
  unfold ierAfterWrite
  split_ifs
  · rw [BitVec.or_assoc, BitVec.or_self]
  · rw [BitVec.and_assoc, BitVec.and_self]

/-- Every write but port B's repeats. -/
theorem repeats_writeAt {off : BitVec 4} (v : Byte) (h : off ≠ 0) : Repeats (writeAt off v) := by
  rw [writeAt_eq]
  unfold decodeWrite
  split
  case h_1 port_b => exact absurd (BitVec.eq_of_toNat_eq port_b) h
  case h_2 | h_16 =>
    rintro s t ⟨rfl⟩
    exact congrArg Host.Outcome.next (writePortA_repeat v s)
  case h_4 => exact repeats_wrDdra v
  case h_14 => exact repeats_wrIfr v
  case h_15 =>
    rintro s t ⟨rfl⟩
    rw [exec_wrIer]
    dsimp only
    rw [ierAfterWrite_repeat]
  all_goals
    rintro s t ⟨rfl⟩
    rfl

/-! ### The port-B write -/

/-- A masked write decides each bit by its direction bit. -/
theorem getLsbD_maskedWrite (orb ddrb v : Byte) (i : Nat) :
    (maskedWrite orb ddrb v).getLsbD i = if ddrb.getLsbD i then v.getLsbD i else orb.getLsbD i := by
  obtain inside | outside := Nat.lt_or_ge i 8
  · rw [maskedWrite, BitVec.getLsbD_or, BitVec.getLsbD_and, BitVec.getLsbD_and, BitVec.getLsbD_not]
    cases ddrb.getLsbD i <;> simp [inside]
  · simp [BitVec.getLsbD_of_ge _ _ outside]

theorem maskedWrite_repeat (orb ddrb v : Byte) :
    maskedWrite (maskedWrite orb ddrb v) ddrb v = maskedWrite orb ddrb v := by
  refine BitVec.eq_of_getLsbD_eq fun i _ => ?_
  simp only [getLsbD_maskedWrite]
  split_ifs <;> rfl

theorem getLsbD_withMiso_of_ne (orb : Byte) (b : Bit) {i : Nat} (hi : i ≠ 1) :
    (withMiso orb b).getLsbD i = orb.getLsbD i := by
  obtain inside | outside := Nat.lt_or_ge i 8
  · have mask_set : ∀ j < 8, j ≠ 1 → (~~~0x02#8).getLsbD j = true := by decide
    have bit_elsewhere : (b.setWidth 8 <<< 1).getLsbD i = false := by
      obtain rfl | above : i = 0 ∨ 1 ≤ i - 1 := by omega
      · simp
      · simp [BitVec.getLsbD_of_ge b _ above]
    rw [withMiso, BitVec.getLsbD_or, BitVec.getLsbD_and, mask_set i inside hi, bit_elsewhere]
    simp
  · rw [BitVec.getLsbD_of_ge _ _ outside, BitVec.getLsbD_of_ge _ _ outside]

theorem getLsbD_withMiso_one (orb : Byte) (b : Bit) : (withMiso orb b).getLsbD 1 = b.getLsbD 0 := by
  simp [withMiso]

/-- What the SCK evaluation leaves: the byte but for MISO, the level taken, and MISO too where no target is. -/
theorem spiSckEval_leaves (s : State) :
    (spiSckEval s).ddrb = s.ddrb ∧ (spiSckEval s).spiLastSck = sckOf s.orb ∧
    (∀ i, i ≠ 1 → (spiSckEval s).orb.getLsbD i = s.orb.getLsbD i) ∧
    (spiTargetAt s s.spiSel = none → (spiSckEval s).orb = s.orb) := by
  by_cases same : sckOf s.orb = s.spiLastSck
  · rw [spiSckEval_of_no_edge same]
    exact ⟨rfl, same.symm, fun _ _ => rfl, fun _ => rfl⟩
  cases present : spiTargetAt s s.spiSel with
  | none =>
    rw [spiSckEval_of_absent same present]
    exact ⟨rfl, rfl, fun _ _ => rfl, fun _ => rfl⟩
  | some x =>
    by_cases high : sckOf s.orb = 1
    · rw [spiSckEval_of_rise_present same high present]
      exact ⟨rfl, high.symm, fun _ hi => getLsbD_withMiso_of_ne _ _ hi, nofun⟩
    · have low : sckOf s.orb = 0 := (bit_cases _).resolve_right high
      rw [spiSckEval_of_fall_present same high present]
      exact ⟨rfl, low.symm, fun _ _ => rfl, nofun⟩

theorem exec_wrOrb_leaves {v : Byte} {s t : State} (h : exec (.wrOrb v) s = .next t) :
    t.ddrb = s.ddrb ∧ t.spiLastSck = sckOf (maskedWrite s.orb s.ddrb v) ∧
    (∀ i, i ≠ 1 → t.orb.getLsbD i = (maskedWrite s.orb s.ddrb v).getLsbD i) ∧
    (spiTargetAt s s.spiSel = none → t.orb = maskedWrite s.orb s.ddrb v) := by
  cases h
  exact spiSckEval_leaves { s with orb := maskedWrite s.orb s.ddrb v }

/-- With SCK as it was there is no edge: the write only stores. -/
theorem exec_wrOrb_of_no_edge {v : Byte} {s : State} (h : sckOf (maskedWrite s.orb s.ddrb v) = s.spiLastSck) :
    exec (.wrOrb v) s = .next { s with orb := maskedWrite s.orb s.ddrb v } :=
  congrArg Host.Outcome.next (spiSckEval_of_no_edge h)

/-- Bytes that differ in MISO alone have one SCK. -/
theorem sckOf_congr {a b : Byte} (h : ∀ i, i ≠ 1 → a.getLsbD i = b.getLsbD i) : sckOf a = sckOf b := by
  refine BitVec.eq_of_getLsbD_eq fun i hi => ?_
  rw [sckOf, sckOf, BitVec.getLsbD_extractLsb', BitVec.getLsbD_extractLsb', h _ (by omega)]

section
variable {v : Byte} {s t : State} (h : exec (.wrOrb v) s = .next t)
include h

/-- The second masked write stores what the first did, but for MISO. -/
theorem second_maskedWrite_agrees (i : Nat) (hi : i ≠ 1) :
    (maskedWrite t.orb t.ddrb v).getLsbD i = (maskedWrite s.orb s.ddrb v).getLsbD i := by
  obtain ⟨hddrb, -, horb, -⟩ := exec_wrOrb_leaves h
  rw [← maskedWrite_repeat s.orb, getLsbD_maskedWrite, getLsbD_maskedWrite, horb i hi, hddrb]

/-- The second port-B write makes no edge, so it calls nothing and stores the masked byte. -/
theorem exec_wrOrb_second : exec (.wrOrb v) t = .next { t with orb := maskedWrite t.orb t.ddrb v } := by
  obtain ⟨-, hsck, -, -⟩ := exec_wrOrb_leaves h
  exact exec_wrOrb_of_no_edge ((sckOf_congr (second_maskedWrite_agrees h)).trans hsck.symm)

/-- The third stores it again. -/
theorem exec_wrOrb_third :
    exec (.wrOrb v) { t with orb := maskedWrite t.orb t.ddrb v } =
      .next { t with orb := maskedWrite t.orb t.ddrb v } := by
  have again := exec_wrOrb_second (exec_wrOrb_second h)
  dsimp only at again
  rwa [maskedWrite_repeat] at again

/-- The second write keeps MISO where it is not writable, and where no target overwrote it. -/
theorem second_maskedWrite_eq (kept : s.ddrb.getLsbD 1 = false ∨ spiTargetAt s s.spiSel = none) :
    maskedWrite t.orb t.ddrb v = t.orb := by
  obtain ⟨hddrb, -, horb, absent⟩ := exec_wrOrb_leaves h
  obtain masked | none := kept
  · refine BitVec.eq_of_getLsbD_eq fun i _ => ?_
    by_cases miso : i = 1
    · rw [miso, getLsbD_maskedWrite, hddrb, masked]
      rfl
    · rw [second_maskedWrite_agrees h i miso, horb i miso]
  · rw [absent none, hddrb, maskedWrite_repeat]

end

/-- Settles O42: at offset 0 the second write stores the masked byte; at the others it changes nothing. -/
theorem repeatedWriteChangesNothing : Obligations.RepeatedWriteChangesNothing := by
  unfold Obligations.RepeatedWriteChangesNothing
  intro off v s t h
  by_cases port_b : off = 0
  · subst port_b
    rw [show writeAt 0 v = .wrOrb v from writeAt_eq 0 v] at h ⊢
    obtain ⟨-, -, horb, -⟩ := exec_wrOrb_leaves h
    refine ⟨maskedWrite t.orb t.ddrb v, exec_wrOrb_second h, exec_wrOrb_third h, fun i hi => ?_, fun kept => ?_⟩
    · rw [second_maskedWrite_agrees h i hi, horb i hi]
    · exact second_maskedWrite_eq h (kept.resolve_left (fun hne => hne rfl))
  · have again : exec (writeAt off v) t = .next t := repeats_writeAt v port_b s t h
    exact ⟨t.orb, again, again, fun _ _ => rfl, fun _ => rfl⟩

/-! ### The port-B write that does not repeat -/

/-- Where MISO is writable and a target answers an SCK rise with another bit than the one written, the second write
overwrites its answer (log 16). -/
theorem exec_wrOrb_second_changes_miso {v : Byte} {s : State} {x : SpiTarget}
    (edge : sckOf (maskedWrite s.orb s.ddrb v) ≠ s.spiLastSck) (high : sckOf (maskedWrite s.orb s.ddrb v) = 1)
    (present : spiTargetAt s s.spiSel = some x) (writable : s.ddrb.getLsbD 1 = true)
    (differs : v.getLsbD 1 ≠
      (Config.spiTransferBit x (spiHistory x s.calls) (mosiOf (maskedWrite s.orb s.ddrb v))).getLsbD 0) :
    ∃ t u, exec (.wrOrb v) s = .next t ∧ exec (.wrOrb v) t = .next u ∧ u.orb ≠ t.orb := by
  have first := exec_wrOrb v s
  rw [spiSckEval_of_rise_present (s := { s with orb := maskedWrite s.orb s.ddrb v }) edge high present] at first
  refine ⟨_, _, first, exec_wrOrb_second first, fun same => differs ?_⟩
  have miso := congrArg (BitVec.getLsbD · 1) same
  dsimp only at miso
  rw [getLsbD_maskedWrite, if_pos writable, getLsbD_withMiso_one] at miso
  exact miso

/-- The SD card selected, and the direction of SCK, MISO and MOSI all set to writable. -/
def misoWritable : State := { State.reset with ora := 0x3E, ddrb := 0x07, spiSel := some 0 }

/-- Settles O43: from `misoWritable`, one of the two bytes that raise SCK writes another bit than the card answers,
whichever it answers. -/
theorem portBRewriteCanChangeMiso : Obligations.PortBRewriteCanChangeMiso := by
  unfold Obligations.PortBRewriteCanChangeMiso
  have inv : misoWritable.Inv := by decide
  have other_bit : ∀ b : Bit, ∃ v ∈ [0x04#8, 0x06#8], v.getLsbD 1 ≠ b.getLsbD 0 := by decide
  have raises : ∀ v ∈ [0x04#8, 0x06#8],
      sckOf (maskedWrite misoWritable.orb misoWritable.ddrb v) = 1 ∧
      mosiOf (maskedWrite misoWritable.orb misoWritable.ddrb v) = 0 := by decide
  obtain ⟨v, hv, differs⟩ := other_bit (Config.spiTransferBit .sdCard (spiHistory .sdCard misoWritable.calls) 0)
  obtain ⟨high, mosi⟩ := raises v hv
  have edge : sckOf (maskedWrite misoWritable.orb misoWritable.ddrb v) ≠ misoWritable.spiLastSck := by
    rw [high]
    decide
  obtain ⟨t, u, first, second, changed⟩ :=
    exec_wrOrb_second_changes_miso (x := .sdCard) edge high rfl (by decide) (by rwa [mosi])
  exact ⟨misoWritable, v, t, u, inv, first, second, changed⟩

end Sys2Proof.Machine
end
